-- ==== Sys2Proof/Word.lean ====
section
/-! DEFINITION. The word types of popcount_bytetable_lut: the widths of 00_scope.md R5 and R6 and of the formats of
30_encoding.md R60 and R61. Bit 0 is the least significant bit of every value, and every value is unsigned (R9). -/

namespace Sys2Proof

/-- A Bitboard, "a 64-bit unsigned integer" (`BBW = 64`, R5): the operand of a command. -/
abbrev Bitboard := BitVec 64

/-- The operation field of a command (`OP_W = 2`, R6, R60). -/
abbrev OpCode := BitVec 2

/-- A command word `CMD[65:0]` (R60). -/
abbrev CommandWord := BitVec 66

/-- A response word `RSP[33:0]` (R61). -/
abbrev ResponseWord := BitVec 34

/-- The result field of a response (`RES_W = 32`, R5, R61). -/
abbrev ResultWord := BitVec 32

/-- The status field of a response word (`ST_W = 2`, R6, R61). -/
abbrev StatusCode := BitVec 2

/-- An index of ByteCountTable, 8 bits, every value valid (`BCT_N = 256`, R5, R41). -/
abbrev TableIndex := BitVec 8

/-- An entry of ByteCountTable (`BCT_W = 4`, R6). -/
abbrev Count := BitVec 4

/-- The running sum of POPCNT, 7 bits (R91, R94). -/
abbrev Sum := BitVec 7

/-- A hash, the index of BitScanTable (`HASH_W = 6`, R5, R42). -/
abbrev Hash := BitVec 6

/-- An entry of BitScanTable, a bit index in 0..63 (`BST_W = 6`, R5). -/
abbrev BitIndex := BitVec 6

end Sys2Proof
end

