-- ==== Sys2Proof/Syntax.lean ====
section
/-! DEFINITION. The commands and the responses of the unit as data: formats C and S of 30_encoding.md (R60 to R63) and the
three operations of spec/opcode_table.json. -/

namespace Sys2Proof

/-- A command in format C, `CMD = op, bb` with `op` in the more significant place (R60). -/
structure Command where
  op : OpCode
  bb : Bitboard
deriving DecidableEq, Repr

/-- The three operations (R62, R66), one constructor per row of spec/opcode_table.json. INIT has no operand: all 2^64
command words with `op = 0` are the same INIT (R68). The reserved code `op = 3` is no operation; the decoder rejects it
(R67). -/
inductive Instr where
  /-- INIT: build ByteCountTable (R81). -/
  | init
  /-- POPCNT bb: population count by byte table (R91). -/
  | popcnt (bb : Bitboard)
  /-- BSF bb: forward bit-scan by De Bruijn multiplication (R101). -/
  | bsf (bb : Bitboard)
deriving DecidableEq, Repr

/-- The outcome codes of a response (R63); all four values of the 2-bit field are used. -/
inductive Status where
  /-- 0, success. -/
  | ok
  /-- 1, BSF with `bb = 0`. -/
  | preconditionViolation
  /-- 2, POPCNT with READY = 0. -/
  | uninitializedTable
  /-- 3, any command with `op = 3`. -/
  | illegalOp
deriving DecidableEq, Repr

/-- A response in format S, `RSP = status, result` (R61). -/
structure Response where
  status : Status
  result : ResultWord
deriving DecidableEq, Repr

/-- The three faults a command can raise (R120). Each is an outcome of one command, reported in that command's response;
the machine goes on. -/
inductive CommandFault where
  /-- BSF of a zero operand (R121). -/
  | preconditionViolation
  /-- POPCNT before INIT has completed since the last reset (R122). -/
  | uninitializedTableAccess
  /-- The reserved operation code (R123). -/
  | illegalOp
deriving DecidableEq, Repr

end Sys2Proof
end

