-- ==== Sys2Proof/WellFormed.lean ====
section
/-! DEFINITION. The checks on commands and responses that their types do not make. `Instr` needs none: "any 64-bit value is a
valid Bitboard" (30_encoding.md R64), so every term of it is a legal operation. -/

namespace Sys2Proof

/-- A command is legal exactly when its operation code is not the reserved one (R62, R67); no pattern of `bb` is reserved
or illegal at the encoding level (R64, R68). -/
def Command.legal (c : Command) : Bool := c.op != 3

/-- A response is one the unit may give (R65): with status OK a value in 0..64, otherwise the sentinel. -/
def Response.wellFormed (r : Response) : Bool :=
  match r.status with
  | .ok => decide (r.result ≤ 64)
  | .preconditionViolation => r.result == 0xFFFFFFFF
  | .uninitializedTable => r.result == 0xFFFFFFFF
  | .illegalOp => r.result == 0xFFFFFFFF

end Sys2Proof
end

