-- ==== Sys2Proof/Decode.lean ====
section
/-! DEFINITION. Decoding of the 66-bit command word (30_encoding.md R60, R62, R66, R67, R68), and after it the encoder. -/

namespace Sys2Proof

/-- Why a command word is no operation: the reserved operation code (R67). -/
inductive DecodeReject where
  /-- `op = 3`, whatever the operand. The unit answers IllegalOp (R123). -/
  | reservedOp (bb : Bitboard)
deriving DecidableEq, Repr

/-- The fields of a command word: `op = CMD[65:64]`, `bb = CMD[63:0]` (R60). -/
def splitWord (w : CommandWord) : Command :=
  { op := w.extractLsb' 64 2, bb := w.extractLsb' 0 64 }

/-- Select the operation by `op` alone (R66): total, and the reserved code is rejected by name (R67). The `bb` field of an
INIT is ignored (R68). -/
def decodeCommand (c : Command) : Except DecodeReject Instr :=
  if c.op = 0 then .ok .init
  else if c.op = 1 then .ok (.popcnt c.bb)
  else if c.op = 2 then .ok (.bsf c.bb)
  else .error (.reservedOp c.bb)

/-- Decode a command word; total on all 2^66 words (R66). -/
def decode (w : CommandWord) : Except DecodeReject Instr := decodeCommand (splitWord w)

/-- The 66 bits of a number laid out as spec/opcode_table.json numbers a command: bit 0 is bit 0 of `bb`, and bits 65:64
are `op` (R60). Bits from `nbits` up are 0 (log 12). -/
def tableWord (nbits w : Nat) : CommandWord := BitVec.ofNat 66 (w % 2 ^ nbits)

/-- What the decoder reads from the opcode table's bits. A number that does not fit the 66 bits of a command is no command
(log 12). -/
def decodeTableWord (nbits w : Nat) : Option Instr :=
  if w % 2 ^ nbits < 2 ^ 66 then (decode (tableWord nbits w)).toOption else none

/-- The word of a command, `CMD = op, bb` (R60). -/
def packCommand (c : Command) : CommandWord := c.op ++ c.bb

/-- The command of an operation, by the values of `op` (R62). The ignored `bb` field of INIT is written as 0: DESIGN CHOICE
(log 8), safe, since all those words are the same INIT (R68). -/
def encodeCommand (i : Instr) : Command :=
  match i with
  | .init => { op := 0, bb := 0 }
  | .popcnt bb => { op := 1, bb := bb }
  | .bsf bb => { op := 2, bb := bb }

/-- The command word of an operation (R60, R62). -/
def encode (i : Instr) : CommandWord := packCommand (encodeCommand i)

/-- The mask of every row of the operation map over the 66-bit word (R66). -/
def opMask : CommandWord := 0x30000000000000000#66

/-- The match patterns of the operation map: INIT, POPCNT and BSF (R66), and the reserved code (R67). -/
def initMatch : CommandWord := 0x00000000000000000#66
/-- The match pattern of POPCNT (R66). -/
def popcntMatch : CommandWord := 0x10000000000000000#66
/-- The match pattern of BSF (R66). -/
def bsfMatch : CommandWord := 0x20000000000000000#66
/-- The match pattern of the reserved operation code (R67). -/
def reservedMatch : CommandWord := 0x30000000000000000#66

end Sys2Proof
end

