-- ==== Sys2Proof/Machine/State.lean ====
section
/-! DEFINITION. The state of the unit (10_state.md section 1), with the environment's side of the interface as plain data, and
the reasons a step of the model can stop. -/

namespace Sys2Proof.Machine

/-- ByteCountTable (BCT): 256 entries (R20), each either a 4-bit value or absent. An absent entry is one whose contents are
unspecified, as every entry is after reset: "A model must not give the entries a value after reset ... it must make them
unreadable" (R21, R153; log 1). -/
structure ByteCountTable where
  entries : Vector (Option Count) 256
deriving DecidableEq, Repr

/-- BCT right after reset: every entry unspecified (R21). -/
def ByteCountTable.unspecified : ByteCountTable := { entries := Vector.replicate 256 none }

/-- One input of the environment (R14, R17): what the host side does next. -/
inductive Input where
  /-- A requester's command word is accepted and executed as one atomic step (R14, R48). -/
  | command (requester : Nat) (word : CommandWord)
  /-- The reset input is asserted between two commands (R150). -/
  | reset
  /-- A requester's command word is accepted and reset is asserted before its response (R152; log 9). -/
  | abandoned (requester : Nat) (word : CommandWord)
deriving DecidableEq, Repr

/-- A response handed to the requester whose command it answers (R61, R136). -/
structure Delivery where
  requester : Nat
  response : Response
deriving DecidableEq, Repr

/-- The unit's state is the pair (BCT, READY) (R15, R16). `response` is the response port, which holds a value only inside a
step. `inputs` and `delivered` are the model's own fields for the environment (log 4, log 5): the inputs still to come, in
acceptance order, and the responses handed out so far, oldest first. -/
structure State where
  bct : ByteCountTable
  ready : Bool
  response : Option Response
  inputs : List Input
  delivered : List Delivery
deriving DecidableEq, Repr

/-- The reasons the model's machine stops. The unit itself never stops (R161): its three faults are responses (R127). -/
inductive Fault where
  /-- Raised by POPCNT, with READY = 1, on reading a ByteCountTable entry that holds no specified value: the model's own
  (log 2). Safe: the spec gives such an entry no value (R21), and no reachable state has one while READY = 1 (R23, R25). -/
  | unspecifiedEntryRead (index : TableIndex)
deriving DecidableEq, Repr

/-- The reasons the model gives an instruction no meaning. -/
inductive Refusal where
  /-- Raised by exec's arm of an instruction that has no meaning yet: safe. No arm raises it. -/
  | notModelled (mnemonic : String)
deriving DecidableEq, Repr

/-- The unit right after reset (R30, R150, R153): READY = 0, every entry of BCT unspecified, no response pending. The
environment's side is empty: DESIGN CHOICE (log 4). -/
def State.reset : State :=
  { bct := ByteCountTable.unspecified
    ready := false
    response := none
    inputs := []
    delivered := [] }

end Sys2Proof.Machine
end

