-- ==== Sys2Proof/Machine/Flags.lean ====
section
/-! DEFINITION. READY, the unit's only flag (10_state.md R22, R23). There are no condition codes: no operation sets a zero,
carry, overflow or sign flag (R28). -/

namespace Sys2Proof.Machine

/-- `READY <- 1`, the last effect of INIT (R23, R81). -/
def State.setReady (s : State) : State := { s with ready := true }

/-- `READY <- 0`, by reset only (R23, R150). -/
def State.clearReady (s : State) : State := { s with ready := false }

end Sys2Proof.Machine
end

