-- ==== Sys2Proof/Config.lean ====
section
/-! DEFINITION. The constants of the unit, which are not state (10_state.md R29), and the spec's open parameters, which no
rule of the unit reads (00_scope.md R8, 70_reset_and_hazards.md R159). -/

namespace Sys2Proof

/-- `DEBRUIJN64`, the multiplier of BSF (R7). PRESUMED (log 3): the spec instantiates it from general knowledge (G1).
Safe for every result of BSF, which R109 shows to be the same for any constant that satisfies PH. -/
def Config.debruijn64 : Bitboard := 0x03F79D71B4CB0A89#64

/-- The 64 entries of BitScanTable, eight per row, entry 0 first, as 42_bitscan.md R108 lists them. -/
def Config.bitScanRows : List BitIndex :=
  [ 0, 47,  1, 56, 48, 27,  2, 60] ++ [57, 49, 41, 37, 28, 16,  3, 61] ++
  [54, 58, 35, 52, 50, 42, 21, 44] ++ [38, 32, 29, 23, 17, 11,  4, 62] ++
  [46, 55, 26, 59, 40, 36, 15, 53] ++ [34, 51, 20, 43, 31, 22, 10, 45] ++
  [25, 39, 14, 33, 19, 30,  9, 24] ++ [13, 18,  8, 12,  7,  6,  5, 63]

/-- BitScanTable (BST): the inverse of the hash of R106, 64 entries of 6 bits (R107, R108). -/
def Config.bitScanTable : Vector BitIndex 64 := ⟨Config.bitScanRows.toArray, rfl⟩

/-- `SQUARE_MAP`, a bijection between the 64 squares and the bit indices 0..63 (R8): OPEN, a parameter of the consumers
of the unit, which no operation reads (log 6). -/
opaque Config.squareMap : Fin 64 ≃ Fin 64

/-- `LAT_INIT`, a finite number of clock cycles (R159): OPEN. The model has no clock and nothing reads it (log 6). -/
opaque Config.latInit : Nat

/-- `LAT_POPCNT` (R159, R160): OPEN, read by nothing (log 6). -/
opaque Config.latPopcnt : Nat

/-- `LAT_BSF` (R159): OPEN, read by nothing (log 6). It takes no operand, since R110 and R160 make it the same for every
non-zero operand. -/
opaque Config.latBsf : Nat

end Sys2Proof
end

