-- ==== Sys2Proof/Machine/Operands.lean ====
section
/-! DEFINITION. What the operations make of their operand: the index arithmetic of INIT (40_init.md R82, R84), the bytes of
POPCNT (20_memory.md R43), and the mask, the product and the hash of BSF (42_bitscan.md R103 to R106). All arithmetic is
unsigned and modulo the width (00_scope.md R11). -/

namespace Sys2Proof.Machine

/-- `i >> 1`, the index INIT's recurrence reads: a logical shift (R82, R84). -/
def halfIndex (i : TableIndex) : TableIndex := i >>> 1

/-- `i[0]`, the low bit of an index, as an entry's width (R81, R84). -/
def lowBit (i : TableIndex) : Count := (i.extractLsb' 0 1).setWidth 4

/-- Byte j of a Bitboard, `bb[8j+7:8j]`; byte 0 is bits 7..0 (R43). -/
def byteOf (bb : Bitboard) (j : Nat) : TableIndex := bb.extractLsb' (8 * j) 8

/-- The byte numbers in the order POPCNT takes them, "least significant first" (R43, R91). -/
def byteNumbers : List Nat := [0, 1, 2, 3, 4, 5, 6, 7]

/-- The mask of BSF, `bb XOR (bb - 1)`, the subtraction modulo 2^64 (R101, R103). -/
def scanMask (bb : Bitboard) : Bitboard := bb ^^^ (bb - 1)

/-- The product of BSF: the low 64 bits of mask times multiplier (R104, R105). -/
def scanProduct (multiplier mask : Bitboard) : Bitboard := mask * multiplier

/-- The hash of BSF, `product[63:58]` (R106). -/
def topSix (product : Bitboard) : Hash := product.extractLsb' 58 6

/-- The whole data path of BSF for a given multiplier and table (R101): mask, product, top six bits, one table read. The unit
runs it with its own two constants; the parameters serve R109, which speaks of every multiplier that satisfies PH. -/
def scanWith (multiplier : Bitboard) (table : Vector BitIndex 64) (bb : Bitboard) : BitIndex :=
  let h := topSix (scanProduct multiplier (scanMask bb))
  table[h.toNat]'h.isLt

end Sys2Proof.Machine
end

