-- ==== Sys2Proof/Machine/Ops.lean ====
section
/-! DEFINITION. The shared operations: reading and writing ByteCountTable, answering a command, raising a fault, reset, taking
the next input and handing a response to its requester, and the bits of a response. -/

namespace Sys2Proof.Machine

/-- `BCT[i]`: read one whole entry, no side effect (R41). An entry with no specified value reads as absent (log 1). -/
def ByteCountTable.read (t : ByteCountTable) (i : TableIndex) : Option Count :=
  t.entries[i.toNat]'i.isLt

/-- `BCT[i] <- v`: replace one whole entry (R41). A value computed from an unspecified entry is itself unspecified (log 2). -/
def ByteCountTable.write (t : ByteCountTable) (i : TableIndex) (v : Option Count) : ByteCountTable :=
  { entries := t.entries.set i.toNat v i.isLt }

/-- The result field of every response whose status is not OK (R65). -/
def sentinel : ResultWord := 0xFFFFFFFF

/-- The status that reports a fault (R63, R120). -/
def faultStatus (f : CommandFault) : Status :=
  match f with
  | .preconditionViolation => .preconditionViolation
  | .uninitializedTableAccess => .uninitializedTable
  | .illegalOp => .illegalOp

/-- The response of a faulting command: the fault's status code and the sentinel (R127). -/
def faultResponse (f : CommandFault) : Response := { status := faultStatus f, result := sentinel }

/-- `respond(OK, v)`: end the command with status OK and a 32-bit result (R10). -/
def State.respond (s : State) (v : ResultWord) : State :=
  { s with response := some { status := .ok, result := v } }

/-- `raise f`: end the command with the named fault. The response carries the fault's status and the sentinel; nothing else
changes, nothing is saved and no control is transferred (R10, R127). -/
def State.raise (s : State) (f : CommandFault) : State :=
  { s with response := some (faultResponse f) }

/-- The fault of a word the decoder rejects (R67, R123). -/
def rejectFault (r : DecodeReject) : CommandFault :=
  match r with
  | .reservedOp _ => .illegalOp

/-- What the unit does with a word the decoder rejects: it answers the fault and changes no state (R67, R123). -/
def rejectWord (r : DecodeReject) (s : State) : Host.Outcome State Fault Refusal :=
  .next (s.raise (rejectFault r))

/-- The reset transition on the unit: READY = 0, every entry of BCT unspecified, no response pending (R150). The constants
keep their values (R151), and what the environment holds is not the unit's (log 9). -/
def State.resetUnit (s : State) : State :=
  { s.clearReady with bct := ByteCountTable.unspecified, response := none }

/-- The state once the environment's next input is taken and `rest` remains to come. -/
def State.takeInput (s : State) (rest : List Input) : State := { s with inputs := rest }

/-- Hand the response on the port to the requester whose command it answers; nothing is left pending (R61, R136). -/
def State.deliver (s : State) (requester : Nat) : State :=
  match s.response with
  | none => s
  | some r =>
    { s with response := none, delivered := s.delivered ++ [{ requester := requester, response := r }] }

/-- Deliver the response of a command that completed; a stop is passed on. -/
def deliverOutcome (requester : Nat) (o : Host.Outcome State Fault Refusal) : Host.Outcome State Fault Refusal :=
  match o with
  | .next s => .next (s.deliver requester)
  | .fault f => .fault f
  | .refused r => .refused r

/-- The environment with a command of a requester as its very next input. -/
def State.present (s : State) (requester : Nat) (w : CommandWord) : State :=
  { s with inputs := .command requester w :: s.inputs }

/-- The 2-bit code of a status (R63). -/
def statusCode (st : Status) : StatusCode :=
  match st with
  | .ok => 0
  | .preconditionViolation => 1
  | .uninitializedTable => 2
  | .illegalOp => 3

/-- The status of a 2-bit code; every code is one (R63). -/
def statusOf (c : StatusCode) : Status :=
  if c = 0 then .ok else if c = 1 then .preconditionViolation else if c = 2 then .uninitializedTable else .illegalOp

/-- The 34-bit word of a response, `RSP = status, result` (R61). -/
def responseWord (r : Response) : ResponseWord := statusCode r.status ++ r.result

/-- The response a 34-bit word stands for (R61). -/
def responseOf (w : ResponseWord) : Response :=
  { status := statusOf (w.extractLsb' 32 2), result := w.extractLsb' 0 32 }

end Sys2Proof.Machine
end

