-- ==== Sys2Proof/Machine/Bitscan.lean ====
section
/-! DEFINITION. BSF, forward bit-scan by De Bruijn multiplication (42_bitscan.md). -/

namespace Sys2Proof.Machine

/-- BSF bb (R101): with `bb = 0` the fault PreconditionViolation, tested before anything else (R102, R121). Otherwise the
entry of BitScanTable at the hash of the mask, zero-extended to 32 bits. READY and BCT are neither read nor written. -/
def execBsf (bb : Bitboard) (s : State) : Host.Outcome State Fault Refusal :=
  if bb = 0 then .next (s.raise .preconditionViolation)
  else .next (s.respond ((scanWith Config.debruijn64 Config.bitScanTable bb).setWidth 32))

end Sys2Proof.Machine
end

