-- ==== Sys2Proof/Machine/Init.lean ====
section
/-! DEFINITION. INIT, the operation that builds ByteCountTable (40_init.md). -/

namespace Sys2Proof.Machine

/-- One turn of INIT's loop: `BCT[i] <- BCT[i >> 1] + i[0]` (R81, R82). Were the entry it reads unspecified, the entry it
writes would be too (log 2). The loop's order rules that out (R82). -/
def initEntry (t : ByteCountTable) (i : TableIndex) : ByteCountTable :=
  t.write i ((t.read (halfIndex i)).map (fun c => c + lowBit i))

/-- The table after INIT has written the indices 0..n, in ascending order: index 0 is the explicit base case, and each later
entry is computed from one written before it in the same step (R81, R82). -/
def initUpTo (t : ByteCountTable) (n : Nat) : ByteCountTable :=
  match n with
  | 0 => t.write 0 (some 0)
  | k + 1 => initEntry (initUpTo t k) (BitVec.ofNat 8 (k + 1))

/-- The table INIT leaves: all 256 entries written (R81). -/
@[irreducible] def builtTable (t : ByteCountTable) : ByteCountTable := initUpTo t 255

/-- INIT (R81): write all 256 entries, then `READY <- 1`, then answer OK with result 0. It does not read READY (R23, R85)
and raises no fault in any state. -/
def execInit (s : State) : Host.Outcome State Fault Refusal :=
  .next (({ s with bct := builtTable s.bct } : State).setReady.respond 0)

end Sys2Proof.Machine
end

