-- ==== Sys2Proof/Machine/Popcount.lean ====
section
/-! DEFINITION. POPCNT, population count by byte table (41_popcount.md). -/

namespace Sys2Proof.Machine

/-- Add the table's entry for each listed byte of the operand to a 7-bit running sum (R91, R92, R94). It stops at the first
entry that holds no specified value (log 2). -/
def sumBytes (t : ByteCountTable) (bb : Bitboard) (js : List Nat) (sum : Sum) : Except TableIndex Sum :=
  match js with
  | [] => .ok sum
  | j :: rest =>
    match t.read (byteOf bb j) with
    | some c => sumBytes t bb rest (sum + c.setWidth 7)
    | none => .error (byteOf bb j)

/-- POPCNT bb (R91): with READY = 0 the fault UninitializedTableAccess, tested before anything else and without a read of
BCT (R122). Otherwise the sum of the eight entries, zero-extended to 32 bits. No state is written. -/
def execPopcnt (bb : Bitboard) (s : State) : Host.Outcome State Fault Refusal :=
  if s.ready then
    match sumBytes s.bct bb byteNumbers 0 with
    | .ok sum => .next (s.respond (sum.setWidth 32))
    | .error i => .fault (.unspecifiedEntryRead i)
  else .next (s.raise .uninitializedTableAccess)

end Sys2Proof.Machine
end

