-- ==== Sys2Proof/Machine/Dispatch.lean ====
section
/-! DEFINITION. The meaning of each operation, one arm per constructor of Instr (00_scope.md R15, 30_encoding.md R66). -/

namespace Sys2Proof.Machine

def exec (i : Instr) (s : State) : Host.Outcome State Fault Refusal :=
  match i with
  | .init => Sys2Proof.Machine.execInit s
  | .popcnt bb => Sys2Proof.Machine.execPopcnt bb s
  | .bsf bb => Sys2Proof.Machine.execBsf bb s

end Sys2Proof.Machine
end

