-- ==== Sys2Proof/Machine/Step.lean ====
section
/-! DEFINITION. One step of the machine: the environment's next input, and with a command its whole execution from acceptance
to response (00_scope.md R14, R15). -/

namespace Sys2Proof.Machine

/-- One step. With no input left the unit is idle and its state does not change (R14, R138; log 13). A command is decoded,
executed atomically, and its one response handed to its requester (R14, R48, R61). Reset, between commands or during one,
puts the unit in its reset state (R150, R152). -/
def step (s : State) : Host.Outcome State Fault Refusal :=
  match s.inputs with
  | [] => .next s
  | .reset :: rest => .next (s.takeInput rest).resetUnit
  | .abandoned _ _ :: rest => .next (s.takeInput rest).resetUnit
  | .command q w :: rest =>
    match decode w with
    | .ok i => deliverOutcome q (exec i (s.takeInput rest))
    | .error r => deliverOutcome q (rejectWord r (s.takeInput rest))

/-- The state in which the very next step accepts the command whose bits are `w`, numbered as spec/opcode_table.json
numbers them, from requester 0 (log 4, log 12). -/
def State.withFetchWord (s : State) (nbits w : Nat) : State := s.present 0 (tableWord nbits w)

end Sys2Proof.Machine
end

