-- ==== Sys2Proof/Machine/Listing.lean ====
section
/-! DEFINITION. The textual form of commands (30_encoding.md R69) and its aliases (R70): one line of a listing to the input it
stands for, and the canonical line of an operation. Text is a list of characters. The points R69 does not settle are in
log 10. -/

namespace Sys2Proof.Machine

/-- Why a line is no line of a listing. -/
inductive ListingError where
  /-- Its first word is no mnemonic, alias, `.cmd` or `RESET`. -/
  | unknownMnemonic
  /-- It has too few or too many words for its mnemonic. -/
  | wrongOperands
  /-- An operand or a value is no literal of the width its place has. -/
  | badLiteral
  /-- The annotation after `->` is not one of the four R69 lists. -/
  | badAnnotation
deriving DecidableEq, Repr

/-- What a line stands for: a command word with the response the annotation expects, if there is one, or an assertion of
the reset input, "a pseudo-command" with no encoding (R69). -/
inductive ListingItem where
  | command (word : CommandWord) (expected : Option Response)
  | reset
deriving DecidableEq, Repr

/-! ### The words of a listing, letter by letter (R69, R63), and the aliases (R70) -/

/-- `INIT` -/
def textInit : List Char := ['I', 'N', 'I', 'T']

/-- `POPCNT` -/
def textPopcnt : List Char := ['P', 'O', 'P', 'C', 'N', 'T']

/-- `BSF` -/
def textBsf : List Char := ['B', 'S', 'F']

/-- `RESET` -/
def textReset : List Char := ['R', 'E', 'S', 'E', 'T']

/-- `.cmd` -/
def textCmd : List Char := ['.', 'c', 'm', 'd']

/-- `OK` -/
def textOk : List Char := ['O', 'K']

/-- `PRECONDITION_VIOLATION` -/
def textPrecondition : List Char :=
  ['P', 'R', 'E', 'C', 'O', 'N', 'D', 'I', 'T', 'I', 'O'] ++
  ['N', '_', 'V', 'I', 'O', 'L', 'A', 'T', 'I', 'O', 'N']

/-- `UNINITIALIZED_TABLE` -/
def textUninitialized : List Char :=
  ['U', 'N', 'I', 'N', 'I', 'T', 'I', 'A', 'L'] ++
  ['I', 'Z', 'E', 'D', '_', 'T', 'A', 'B', 'L', 'E']

/-- `ILLEGAL_OP` -/
def textIllegal : List Char := ['I', 'L', 'L', 'E', 'G', 'A', 'L', '_', 'O', 'P']

/-- `initialize` -/
def aliasInitialize : List Char := ['i', 'n', 'i', 't', 'i', 'a', 'l', 'i', 'z', 'e']

/-- `initialize_popcount_table` -/
def aliasInitializeTable : List Char :=
  ['i', 'n', 'i', 't', 'i', 'a', 'l', 'i', 'z', 'e', '_', 'p'] ++
  ['o', 'p', 'c', 'o', 'u', 'n', 't', '_', 't', 'a', 'b', 'l', 'e']

/-- `popcount` -/
def aliasPopcount : List Char := ['p', 'o', 'p', 'c', 'o', 'u', 'n', 't']

/-- `popCount` -/
def aliasPopCount : List Char := ['p', 'o', 'p', 'C', 'o', 'u', 'n', 't']

/-- `bit_scan_forward` -/
def aliasBitScanForward : List Char := ['b', 'i', 't', '_', 's', 'c', 'a', 'n', '_', 'f', 'o', 'r', 'w', 'a', 'r', 'd']

/-- `bitScanForward` -/
def aliasBitScanForwardCamel : List Char := ['b', 'i', 't', 'S', 'c', 'a', 'n', 'F', 'o', 'r', 'w', 'a', 'r', 'd']

/-- The value of a hexadecimal digit. -/
def hexDigit (c : Char) : Option Nat :=
  if '0' ≤ c ∧ c ≤ '9' then some (c.toNat - '0'.toNat)
  else if 'a' ≤ c ∧ c ≤ 'f' then some (c.toNat - 'a'.toNat + 10)
  else if 'A' ≤ c ∧ c ≤ 'F' then some (c.toNat - 'A'.toNat + 10)
  else none

/-- The value of a decimal digit. -/
def decDigit (c : Char) : Option Nat :=
  if '0' ≤ c ∧ c ≤ '9' then some (c.toNat - '0'.toNat) else none

/-- The digits of a hexadecimal literal after its prefix; an underscore stands between two digits (R69, log 10). -/
def hexDigits (cs : List Char) (afterDigit : Bool) : Option (List Nat) :=
  match cs with
  | [] => if afterDigit then some [] else none
  | c :: rest =>
    if c = '_' then (if afterDigit then hexDigits rest false else none)
    else
      match hexDigit c, hexDigits rest true with
      | some d, some ds => some (d :: ds)
      | _, _ => none

/-- The digits of a decimal literal. -/
def decDigits (cs : List Char) : Option (List Nat) :=
  match cs with
  | [] => some []
  | c :: rest =>
    match decDigit c, decDigits rest with
    | some d, some ds => some (d :: ds)
    | _, _ => none

/-- The number digits stand for in a base, most significant first. -/
def digitsValue (base : Nat) (ds : List Nat) : Nat := ds.foldl (fun v d => v * base + d) 0

/-- A literal of a given width (R69): `0x` and one hexadecimal digit up to width / 4 of them, zero-extended on the left, or
decimal. A decimal literal that does not fit is none. -/
def literal (width : Nat) (cs : List Char) : Option (BitVec width) :=
  match cs with
  | '0' :: 'x' :: body =>
    match hexDigits body false with
    | some ds => if ds.length * 4 ≤ width then some (BitVec.ofNat width (digitsValue 16 ds)) else none
    | none => none
  | [] => none
  | _ =>
    match decDigits cs with
    | some ds => if digitsValue 10 ds < 2 ^ width then some (BitVec.ofNat width (digitsValue 10 ds)) else none
    | none => none

/-- A raw command word, `0x` and 17 hexadecimal digits giving a 66-bit word (R69). -/
def rawWord (cs : List Char) : Option CommandWord :=
  match cs with
  | '0' :: 'x' :: body =>
    match body.mapM hexDigit with
    | some ds =>
      if ds.length = 17 ∧ digitsValue 16 ds < 2 ^ 66 then some (BitVec.ofNat 66 (digitsValue 16 ds)) else none
    | none => none
  | _ => none

/-- A blank between words. -/
def isBlank (c : Char) : Bool := c = ' ' || c = '\t'

/-- The words of a line; `word` holds the characters of the word under way, last one first. -/
def lineWords (cs word : List Char) : List (List Char) :=
  match cs with
  | [] => if word = [] then [] else [word.reverse]
  | c :: rest =>
    if isBlank c then (if word = [] then lineWords rest [] else word.reverse :: lineWords rest [])
    else lineWords rest (c :: word)

/-- A line without its comment, which starts with a semicolon and runs to the end of the line (R69). -/
def withoutComment (cs : List Char) : List Char := cs.takeWhile (fun c => c ≠ ';')

/-- The part of a line before `->`, and the annotation after it where there is one (R69). DESIGN CHOICE (log 10): R69 does not
say whether blanks stand around the arrow, and none is needed: a line is split at its first `->`, wherever it stands. -/
def splitArrow (cs : List Char) : List Char × Option (List Char) :=
  match cs with
  | [] => ([], none)
  | '-' :: '>' :: rest => ([], some rest)
  | c :: rest => (c :: (splitArrow rest).1, (splitArrow rest).2)

/-- The four annotations of R69, each as the response it expects; a fault's result is the sentinel (R65). -/
def annotation (words : List (List Char)) : Option Response :=
  match words with
  | [w] =>
    if w = textPrecondition then some (faultResponse .preconditionViolation)
    else if w = textUninitialized then some (faultResponse .uninitializedTableAccess)
    else if w = textIllegal then some (faultResponse .illegalOp)
    else none
  | [w, v] =>
    if w = textOk then (literal 32 v).map (fun x => { status := .ok, result := x }) else none
  | _ => none

/-- The words a line of a listing can begin with. -/
inductive Mnemonic where
  | init
  | popcnt
  | bsf
  | raw
  | reset
deriving DecidableEq, Repr

/-- The mnemonic a word spells: case-insensitive (R69), or an alias (R70) in its own spelling (log 10). -/
def mnemonicOf (w : List Char) : Option Mnemonic :=
  let u := w.map Char.toUpper
  if u = textInit ∨ w = aliasInitialize ∨ w = aliasInitializeTable then some .init
  else if u = textPopcnt ∨ w = aliasPopcount ∨ w = aliasPopCount then some .popcnt
  else if u = textBsf ∨ w = aliasBitScanForward ∨ w = aliasBitScanForwardCamel then some .bsf
  else if w = textCmd then some .raw
  else if u = textReset then some .reset
  else none

/-- A command line's command word from its words (R69). -/
def commandLine (m : Mnemonic) (operands : List (List Char)) : Except ListingError CommandWord :=
  match m, operands with
  | .init, [] => .ok (encode .init)
  | .popcnt, [v] =>
    match literal 64 v with
    | some bb => .ok (encode (.popcnt bb))
    | none => .error .badLiteral
  | .bsf, [v] =>
    match literal 64 v with
    | some bb => .ok (encode (.bsf bb))
    | none => .error .badLiteral
  | .raw, [v] =>
    match rawWord v with
    | some w => .ok w
    | none => .error .badLiteral
  | _, _ => .error .wrongOperands

/-- A line whose annotation has been read. -/
def itemOf (words : List (List Char)) (expected : Option Response) : Except ListingError (Option ListingItem) :=
  match words with
  | [] => if expected = none then .ok none else .error .badAnnotation
  | w :: operands =>
    match mnemonicOf w with
    | none => .error .unknownMnemonic
    | some .reset =>
      if operands ≠ [] then .error .wrongOperands
      else if expected = none then .ok (some .reset) else .error .badAnnotation
    | some m =>
      match commandLine m operands with
      | .ok word => .ok (some (.command word expected))
      | .error e => .error e

/-- One line of a listing; a line with no word is none (R69: "One command per line"). -/
def parseLine (line : List Char) : Except ListingError (Option ListingItem) :=
  let parts := splitArrow (withoutComment line)
  match parts.2 with
  | none => itemOf (lineWords parts.1 []) none
  | some text =>
    match annotation (lineWords text []) with
    | some r => itemOf (lineWords parts.1 []) (some r)
    | none => .error .badAnnotation

/-- A listing, line by line; the first line that is none of R69's is reported. -/
def parseListing (lines : List (List Char)) : Except ListingError (List ListingItem) :=
  match lines with
  | [] => .ok []
  | l :: rest =>
    match parseLine l, parseListing rest with
    | .ok (some item), .ok items => .ok (item :: items)
    | .ok none, .ok items => .ok items
    | .error e, _ => .error e
    | _, .error e => .error e

/-- The input an item stands for, issued by one requester; the annotation "is not part of the command" (R69). -/
def ListingItem.input (requester : Nat) (item : ListingItem) : Input :=
  match item with
  | .command w _ => .command requester w
  | .reset => .reset

/-- The environment with a listing's inputs to come after those it already holds. -/
def State.loadListing (s : State) (requester : Nat) (items : List ListingItem) : State :=
  { s with inputs := s.inputs ++ items.map (ListingItem.input requester) }

/-- The character of a hexadecimal digit. -/
def hexChar (d : Nat) : Char :=
  if d < 10 then Char.ofNat ('0'.toNat + d) else Char.ofNat ('A'.toNat + (d - 10))

/-- The last n hexadecimal digits of a number, most significant first. -/
def hexText (n v : Nat) : List Char :=
  match n with
  | 0 => []
  | k + 1 => hexText k (v / 16) ++ [hexChar (v % 16)]

/-- The canonical line of an operation: its mnemonic, and its operand as `0x` and 16 hexadecimal digits (R69). -/
def listingLine (i : Instr) : List Char :=
  match i with
  | .init => textInit
  | .popcnt bb => textPopcnt ++ [' ', '0', 'x'] ++ hexText 16 bb.toNat
  | .bsf bb => textBsf ++ [' ', '0', 'x'] ++ hexText 16 bb.toNat

end Sys2Proof.Machine
end

