-- ==== Sys2Proof/Machine/Reference.lean ====
section
/-! DEFINITION. The spec's reference functions, which state contracts and are not hardware (00_scope.md R12), and the outcome
table of 60_exceptions.md R124 as a function of READY and the command word alone. No meaning of an operation uses them. -/

namespace Sys2Proof.Machine

/-- `popcount_ref(v, n)`: the number of i in 0..n-1 with `v[i] = 1`, "the count obtained by testing each of the 64 bits
individually" when n = 64 (R12). -/
def popcountRef {n : Nat} (v : BitVec n) : Nat := (List.range n).countP (fun i => v.getLsbD i)

/-- `ctz64(v)`: the least i with `v[i] = 1`; it is not defined for 0 (R12). -/
def ctz64 (v : Bitboard) : Option Nat := (List.range 64).find? (fun i => v.getLsbD i)

/-- Clearing the lowest set bit, `bb AND (bb - 1)`, which the host does (R70, R96 (g), R112). -/
def clearLowest (bb : Bitboard) : Bitboard := bb &&& (bb - 1)

/-- `clearLowest` applied t times: `bb_t` of R112. -/
def clearTimes (t : Nat) (bb : Bitboard) : Bitboard :=
  match t with
  | 0 => bb
  | k + 1 => clearLowest (clearTimes k bb)

/-- `h(k) = ((2^(k+1) - 1) * DEBRUIJN64 mod 2^64) >> 58` for k in 0..63 (R7, R106). -/
def positionHash (multiplier : Bitboard) (k : Fin 64) : Fin 64 :=
  ⟨((2 ^ (k.val + 1) - 1) * multiplier.toNat % 2 ^ 64) >>> 58, by
    rw [Nat.shiftRight_eq_div_pow]; omega⟩

/-- The constraint PH: h is a bijection of 0..63 (R7). -/
abbrev PerfectHash (multiplier : Bitboard) : Prop := Function.Bijective (positionHash multiplier)

/-- BitScanTable as R107 defines it for a multiplier: the inverse of h, `BST[h(k)] = k` for every k in 0..63. -/
abbrev InvertsHash (multiplier : Bitboard) (table : Vector BitIndex 64) : Prop :=
  ∀ k : Fin 64, (table[(positionHash multiplier k).val]'(positionHash multiplier k).isLt).toNat = k.val

/-- The closed form of ByteCountTable after INIT, `BCT[i] = popcount_ref(i, 8)` for every i (R83). -/
abbrev Counted (t : ByteCountTable) : Prop :=
  ∀ i : TableIndex, t.read i = some (BitVec.ofNat 4 (popcountRef i))

/-- The response of R124's table to a command word, from READY and the word alone. -/
def referenceAnswer (ready : Bool) (w : CommandWord) : Response :=
  let bb : Bitboard := w.extractLsb' 0 64
  match (w.extractLsb' 64 2).toNat with
  | 0 => { status := .ok, result := 0 }
  | 1 =>
    if ready then { status := .ok, result := BitVec.ofNat 32 (popcountRef bb) }
    else { status := .uninitializedTable, result := 0xFFFFFFFF }
  | 2 =>
    match ctz64 bb with
    | some k => { status := .ok, result := BitVec.ofNat 32 k }
    | none => { status := .preconditionViolation, result := 0xFFFFFFFF }
  | _ => { status := .illegalOp, result := 0xFFFFFFFF }

/-- READY after an input: reset clears it, INIT sets it, nothing else changes it (R23). -/
def referenceReady (ready : Bool) (i : Input) : Bool :=
  match i with
  | .reset => false
  | .abandoned _ _ => false
  | .command _ w => if (w.extractLsb' 64 2).toNat = 0 then true else ready

/-- READY at the end of a run, and the responses delivered in it, oldest first: the inputs executed one after another in
acceptance order (R49 (a)). -/
def referenceRun (ready : Bool) (inputs : List Input) : Bool × List Delivery :=
  match inputs with
  | [] => (ready, [])
  | i :: rest =>
    let tail := referenceRun (referenceReady ready i) rest
    match i with
    | .command q w => (tail.1, { requester := q, response := referenceAnswer ready w } :: tail.2)
    | .reset => tail
    | .abandoned _ _ => tail

/-- The commands of one requester among the inputs, in its own order (R48, R136). -/
def commandsOf (q : Nat) (inputs : List Input) : List CommandWord :=
  inputs.filterMap (fun i => match i with
    | .command r w => if r = q then some w else none
    | .reset => none
    | .abandoned _ _ => none)

/-- The responses one requester has received, oldest first (R136). -/
def responsesTo (q : Nat) (ds : List Delivery) : List Response :=
  (ds.filter (fun d => d.requester == q)).map (fun d => d.response)

/-- An input is a command, as every input between two resets is (R150). -/
def Input.isCommand (i : Input) : Bool :=
  match i with
  | .command _ _ => true
  | .reset => false
  | .abandoned _ _ => false

/-- "INIT has completed at least once since the last reset" (R22, R49 (b)) after the inputs `before`, for a unit whose READY was
`ready` ahead of them: either READY was 1 and no reset is among them, or an INIT is and no reset comes after it. Both inputs
that are no command are resets (R150). -/
def InitSinceReset (ready : Bool) (before : List Input) : Prop :=
  (ready = true ∧ ∀ i ∈ before, i.isCommand = true) ∨
  ∃ (earlier later : List Input) (r : Nat) (w : CommandWord),
    before = earlier ++ .command r w :: later ∧ decode w = .ok .init ∧ ∀ i ∈ later, i.isCommand = true

end Sys2Proof.Machine
end

