-- ==== Sys2Proof/Safety.lean ====
section
/-! DEFINITION. What counts as a safe run, in the words the claims use: the invariant of 10_state.md R23, and a run of the
machine over all the inputs the environment holds. -/

namespace Sys2Proof.Machine

/-- R23: READY = 1 implies `BCT[i] = popcount_ref(i, 8)` for all i in 0..255. -/
abbrev State.TableSound (s : State) : Prop := s.ready = true → Counted s.bct

/-- The invariant of every reachable state: R23, and between steps no response is pending (R16, R30, R61). -/
abbrev State.Inv (s : State) : Prop := s.TableSound ∧ s.response = none

/-- READY = 0 means ByteCountTable is uninitialised (R22): every entry is unspecified. -/
abbrev State.UnbuiltTableAbsent (s : State) : Prop := s.ready = false → ∀ i : TableIndex, s.bct.read i = none

/-- A run: one step for each input the environment holds (R16). -/
def State.runAll (s : State) : Host.Outcome State Fault Refusal :=
  Host.Core.run Sys2Proof.core s.inputs.length s

/-- The machine makes a step: neither a fault nor a refusal of the model. -/
abbrev State.Steps (s : State) : Prop := ∃ s', step s = .next s'

end Sys2Proof.Machine
end

