-- ==== Sys2Proof/Certificates/Slice0/Obligations.lean ====
section
/-! DEFINITION. The statements for the provers, from the numbered rules of spec/. Each docstring names the rules it formalises;
the test file holds a witness for the hypotheses of each. -/

open Sys2Proof Sys2Proof.Machine

/-! ## Reset and the whole machine's state -/

/-- R30 (10_state.md): after reset READY = 0, every BCT entry is unspecified, the constants hold their values (the
multiplier satisfies PH and the table is its inverse), nothing is pending, and the first command may be any of the three: INIT
and BSF of a non-zero operand succeed, POPCNT faults. -/
def Obligations.ResetValuesAndFirstCommand : Prop :=
  State.reset.ready = false ∧ (∀ i : TableIndex, State.reset.bct.read i = none) ∧ State.reset.response = none ∧
  PerfectHash Config.debruijn64 ∧ InvertsHash Config.debruijn64 Config.bitScanTable ∧
  (∃ t, exec .init State.reset = .next t ∧ t.response = some ⟨.ok, 0⟩) ∧
  (∀ bb : Bitboard, bb ≠ 0 → ∃ t v, exec (.bsf bb) State.reset = .next t ∧ t.response = some ⟨.ok, v⟩) ∧
  (∀ bb : Bitboard, ∃ t, exec (.popcnt bb) State.reset = .next t ∧
    t.response = some ⟨.uninitializedTable, 0xFFFFFFFF⟩)

/-- R150 (70_reset_and_hazards.md): asserting reset in any state gives READY = 0, every entry of BCT unspecified (absent, as
R153 lets a model represent it) and no response pending; two resets in a row leave the unit as one does; reset is the only way
READY returns to 0. -/
def Obligations.ResetFromAnyState : Prop :=
  (∀ (s : State) (rest : List Input), s.inputs = .reset :: rest →
    ∃ t : State, step s = .next t ∧ t.ready = false ∧ (∀ i : TableIndex, t.bct.read i = none) ∧ t.response = none) ∧
  (∀ (s t u : State) (rest : List Input), s.inputs = .reset :: .reset :: rest → step s = .next t → step t = .next u →
    u.bct = t.bct ∧ u.ready = t.ready ∧ u.response = t.response) ∧
  (∀ s t : State, step s = .next t → s.ready = true → t.ready = false →
    ∃ rest, s.inputs = .reset :: rest ∨ ∃ q w, s.inputs = .abandoned q w :: rest)

/-- R152 (70_reset_and_hazards.md): a command under way when reset is asserted is abandoned. It produces no response, and the
state is that of R150 whatever the command was and whatever the state it was accepted in. -/
def Obligations.ResetDuringACommand : Prop :=
  ∀ (s : State) (q : Nat) (w : CommandWord) (rest : List Input), s.inputs = .abandoned q w :: rest →
    ∃ t : State, step s = .next t ∧ t.delivered = s.delivered ∧
      t.ready = false ∧ (∀ i : TableIndex, t.bct.read i = none) ∧ t.response = none

/-- The model's own choice (log 9): reset, between commands or during one, takes its own input and leaves the environment's
later inputs and the responses already delivered as they are. -/
def Obligations.ResetLeavesTheEnvironment : Prop :=
  ∀ (s : State) (rest : List Input), (s.inputs = .reset :: rest ∨ ∃ q w, s.inputs = .abandoned q w :: rest) →
    ∃ t : State, step s = .next t ∧ t.inputs = rest ∧ t.delivered = s.delivered

/-- The state after reset meets the invariant of every reachable state (R23, R30), and its table is unspecified (R21). -/
def Obligations.ResetMeetsTheInvariants : Prop :=
  State.reset.Inv ∧ State.reset.UnbuiltTableAbsent

/-- R23 (10_state.md), the invariant: READY = 1 implies `BCT[i] = popcount_ref(i, 8)` for all i. Every step from a state that
meets it gives a state that meets it, and no response is pending between steps. -/
def Obligations.EveryStepKeepsTheTableSound : Prop :=
  ∀ s t : State, s.Inv → step s = .next t → t.Inv

/-- R22 (10_state.md): READY = 0 means ByteCountTable is uninitialised. Every step keeps it: with READY = 0 no entry has a
value. That an unspecified entry is an absent one is the model's representation (log 1). -/
def Obligations.EveryStepKeepsTheUnbuiltTableAbsent : Prop :=
  ∀ s t : State, s.UnbuiltTableAbsent → step s = .next t → t.UnbuiltTableAbsent

/-- R23 (10_state.md): only INIT sets READY, and only reset clears it, over all inputs. -/
def Obligations.OnlyInitSetsReadyOnlyResetClearsIt : Prop :=
  ∀ s t : State, step s = .next t →
    (s.ready = false → t.ready = true →
      ∃ q w rest, s.inputs = .command q w :: rest ∧ decode w = .ok .init) ∧
    (s.ready = true → t.ready = false →
      ∃ rest, s.inputs = .reset :: rest ∨ ∃ q w, s.inputs = .abandoned q w :: rest)

/-- R20 (10_state.md): INIT is the only operation that writes BCT; otherwise only reset changes what it holds. -/
def Obligations.OnlyInitAndResetChangeTheTable : Prop :=
  ∀ (s t : State) (i : TableIndex), step s = .next t → t.bct.read i ≠ s.bct.read i →
    (∃ q w rest, s.inputs = .command q w :: rest ∧ decode w = .ok .init) ∨
    (∃ rest, s.inputs = .reset :: rest ∨ ∃ q w, s.inputs = .abandoned q w :: rest)

/-- R25 (10_state.md): no response and no next state depends on unspecified contents of BCT. With READY = 0 INIT gives the
same state from any contents, and POPCNT, BSF and the reserved code answer the same and leave the contents as they are. -/
def Obligations.UnspecifiedTableIsNeverRead : Prop :=
  ∀ (s : State) (b : ByteCountTable), s.ready = false →
    exec .init { s with bct := b } = exec .init s ∧
    (∀ bb : Bitboard, ∃ r, exec (.popcnt bb) s = .next { s with response := some r } ∧
      exec (.popcnt bb) { s with bct := b } = .next { s with bct := b, response := some r }) ∧
    (∀ bb : Bitboard, ∃ r, exec (.bsf bb) s = .next { s with response := some r } ∧
      exec (.bsf bb) { s with bct := b } = .next { s with bct := b, response := some r }) ∧
    (∀ j : DecodeReject, ∃ r, rejectWord j s = .next { s with response := some r } ∧
      rejectWord j { s with bct := b } = .next { s with bct := b, response := some r })

/-! ## INIT -/

/-- R83 (40_init.md): after INIT, from any state, `BCT[i] = popcount_ref(i, 8)` for every i and READY = 1. INIT completes
in every state, answers OK with result 0 and changes nothing else (R81). -/
def Obligations.InitBuildsTheCountTable : Prop :=
  ∀ s : State, ∃ t : ByteCountTable, Counted t ∧
    exec .init s = .next { s with bct := t, ready := true, response := some ⟨.ok, 0⟩ }

/-- R82 (40_init.md): for index 0 the count is 0, and for each i from 1 to 255 `count[i] = count[i >> 1] + (i & 1)`; INIT
never reads a value left by reset or by an earlier command, so its outcome does not depend on the table before it. -/
def Obligations.InitFollowsTheRecurrence : Prop :=
  (∀ s t : State, exec .init s = .next t →
    t.bct.read 0 = some 0 ∧
    ∀ i : TableIndex, i ≠ 0 → ∃ c, t.bct.read (i >>> 1) = some c ∧
      t.bct.read i = some (c + (i &&& 1).setWidth 4)) ∧
  (∀ (s : State) (b : ByteCountTable), exec .init { s with bct := b } = exec .init s)

/-- R84 (40_init.md): every entry is at most 8, and 8 at index 255; the entry the recurrence reads is at most 7, and its
addition is an exact integer addition that never overflows 4 bits. -/
def Obligations.InitNeverOverflowsAnEntry : Prop :=
  ∀ s t : State, exec .init s = .next t →
    t.bct.read 255 = some 8 ∧
    (∀ i : TableIndex, ∃ c, t.bct.read i = some c ∧ c.toNat ≤ 8) ∧
    (∀ i : TableIndex, i ≠ 0 → ∃ c d, t.bct.read (i >>> 1) = some c ∧ c.toNat ≤ 7 ∧ t.bct.read i = some d ∧
      d.toNat = c.toNat + i.toNat % 2)

/-- R85 (40_init.md): INIT does not test READY; an INIT issued when READY = 1 leaves the unit's state as it was and answers
OK 0 like the first; INIT twice is INIT once; and no operation takes READY back to 0. -/
def Obligations.RepeatedInitIsIdempotent : Prop :=
  (∀ (s : State) (b : Bool), exec .init { s with ready := b } = exec .init s) ∧
  (∀ s : State, s.TableSound → s.ready = true → exec .init s = .next { s with response := some ⟨.ok, 0⟩ }) ∧
  (∀ s t : State, exec .init s = .next t → exec .init t = .next t) ∧
  (∀ (s t : State) (i : Instr), s.ready = true → exec i s = .next t → t.ready = true)

/-- The frame of INIT (R81: "No side effects beyond populating the table"): beside BCT, READY and its response it changes
nothing. Of the model's own fields, the inputs and the deliveries stay (log 4). -/
def Obligations.InitFrame : Prop :=
  ∀ s t : State, exec .init s = .next t → t.ready = true ∧ t.inputs = s.inputs ∧ t.delivered = s.delivered

/-! ## POPCNT -/

/-- R93 (41_popcount.md): when READY = 1, result = popcount_ref(bb, 64), the count obtained by testing each bit. POPCNT
completes so in every state that meets the invariant of R23, and changes nothing but the response. -/
def Obligations.PopcntReturnsTheBitCount : Prop :=
  ∀ (s : State) (bb : Bitboard), s.TableSound → s.ready = true →
    exec (.popcnt bb) s = .next { s with response := some ⟨.ok, BitVec.ofNat 32 (popcountRef bb)⟩ }

/-- R91, R92 (41_popcount.md): with READY = 1 and any values in the eight entries the operand's bytes select, the result is the
exact sum of those eight entries. -/
def Obligations.PopcntSumsEightEntries : Prop :=
  ∀ (s : State) (bb : Bitboard) (c : Fin 8 → Count), s.ready = true →
    (∀ j : Fin 8, s.bct.read (bb.extractLsb' (8 * j.val) 8) = some (c j)) →
    exec (.popcnt bb) s =
      .next { s with response := some ⟨.ok, BitVec.ofNat 32 (((List.finRange 8).map (fun j => (c j).toNat)).sum)⟩ }

/-- R122 (60_exceptions.md): POPCNT with READY = 0 answers status 2 with the sentinel and no state changes; in particular the
table is not built. No other operation, no POPCNT with READY = 1 and no reserved word answers that status. -/
def Obligations.PopcntBeforeInitFaults : Prop :=
  (∀ (s : State) (bb : Bitboard), s.ready = false →
    exec (.popcnt bb) s = .next { s with response := some ⟨.uninitializedTable, 0xFFFFFFFF⟩ }) ∧
  (∀ (s t : State) (i : Instr) (v : ResultWord), exec i s = .next t → t.response = some ⟨.uninitializedTable, v⟩ →
    s.ready = false ∧ ∃ bb, i = .popcnt bb) ∧
  (∀ (s t : State) (j : DecodeReject) (v : ResultWord), rejectWord j s = .next t →
    t.response ≠ some ⟨.uninitializedTable, v⟩)

/-- The model's own stop (log 2): with READY = 1, a POPCNT that selects an entry with no specified value stops, and names such
an entry. No state that meets the invariant of R23 is one. -/
def Obligations.PopcntStopsOnlyOnAnAbsentEntry : Prop :=
  (∀ (s : State) (bb : Bitboard) (j : Fin 8), s.ready = true → s.bct.read (bb.extractLsb' (8 * j.val) 8) = none →
    ∃ i, exec (.popcnt bb) s = .fault (.unspecifiedEntryRead i) ∧ s.bct.read i = none) ∧
  (∀ (s : State) (bb : Bitboard) (f : Fault), exec (.popcnt bb) s = .fault f →
    s.ready = true ∧ ∃ j : Fin 8, s.bct.read (bb.extractLsb' (8 * j.val) 8) = none)

/-- R94 (41_popcount.md): the sum is at most 64, 64 is reached only by the all-ones operand, and bits 31..7 of the result are
0, since each looked-up entry is at most 8. -/
def Obligations.PopcntResultRange : Prop :=
  ∀ (s : State) (bb : Bitboard), s.TableSound → s.ready = true →
    (∀ j : Fin 8, ∃ c, s.bct.read (bb.extractLsb' (8 * j.val) 8) = some c ∧ c.toNat ≤ 8) ∧
    ∃ v : ResultWord, exec (.popcnt bb) s = .next { s with response := some ⟨.ok, v⟩ } ∧
      v.toNat ≤ 64 ∧ (v.toNat = 64 ↔ bb = 0xFFFFFFFFFFFFFFFF) ∧ v.extractLsb' 7 25 = 0

/-- R95 (41_popcount.md): summing the eight entries in any order gives the same result. -/
def Obligations.ByteOrderDoesNotMatter : Prop :=
  ∀ (t : ByteCountTable) (bb : Bitboard) (js : List Nat), (∀ i : TableIndex, t.read i ≠ none) →
    js.Perm byteNumbers → sumBytes t bb js 0 = sumBytes t bb byteNumbers 0

/-- R96 (g) (41_popcount.md): clearing the lowest set bit, repeated as many times as POPCNT answers, reaches zero exactly at
the last of those steps. -/
def Obligations.PopcntCountsTheClearings : Prop :=
  ∀ (s : State) (bb : Bitboard), s.TableSound → s.ready = true →
    ∃ n : ResultWord, exec (.popcnt bb) s = .next { s with response := some ⟨.ok, n⟩ } ∧
      clearTimes n.toNat bb = 0 ∧ ∀ t : Nat, t < n.toNat → clearTimes t bb ≠ 0

/-! ## BSF -/

/-- R100 (42_bitscan.md), R109: for every non-zero operand BSF completes in every state, returns an index k below 64 such that
bit k of `bb` is 1 and no bit below k is 1, which is ctz64(bb), and changes nothing but the response. -/
def Obligations.BsfReturnsTheLowestSetBit : Prop :=
  ∀ (s : State) (bb : Bitboard), bb ≠ 0 →
    ∃ k : Nat, k < 64 ∧ ctz64 bb = some k ∧ bb.getLsbD k = true ∧ (∀ j : Nat, j < k → bb.getLsbD j = false) ∧
      exec (.bsf bb) s = .next { s with response := some ⟨.ok, BitVec.ofNat 32 k⟩ }

/-- R121 (60_exceptions.md): BSF of zero answers status 1 with the sentinel, and no state changes; no other operation, no other
operand and no reserved word raises it. -/
def Obligations.BsfOfZeroFaults : Prop :=
  (∀ s : State, exec (.bsf 0) s = .next { s with response := some ⟨.preconditionViolation, 0xFFFFFFFF⟩ }) ∧
  (∀ (s t : State) (i : Instr) (v : ResultWord), exec i s = .next t →
    t.response = some ⟨.preconditionViolation, v⟩ → i = .bsf 0) ∧
  (∀ (s t : State) (j : DecodeReject) (v : ResultWord), rejectWord j s = .next t →
    t.response ≠ some ⟨.preconditionViolation, v⟩)

/-- R103 (42_bitscan.md): for a non-zero operand with k = ctz64(bb) the mask `bb XOR (bb - 1)` is `2^(k+1) - 1`, so bits k..0
are 1 and the others 0. -/
def Obligations.ScanMaskIsTheLowOnes : Prop :=
  ∀ (bb : Bitboard) (k : Nat), ctz64 bb = some k →
    (scanMask bb).toNat = 2 ^ (k + 1) - 1 ∧ ∀ j : Nat, (scanMask bb).getLsbD j = decide (j ≤ k)

/-- R106 (42_bitscan.md): the hash is the top six bits of the product, the same as `product >> 58`, and depends only on
k = ctz64(bb): it is h(k), for any multiplier. The result of BSF is `BST[h(k)]`. -/
def Obligations.ScanHashDependsOnThePositionOnly : Prop :=
  ∀ (bb : Bitboard) (k : Fin 64), ctz64 bb = some k.val →
    (∀ multiplier : Bitboard,
      (topSix (scanProduct multiplier (scanMask bb))).toNat = (positionHash multiplier k).val ∧
      topSix (scanProduct multiplier (scanMask bb)) = (scanProduct multiplier (scanMask bb) >>> 58).setWidth 6) ∧
    ∀ s : State, exec (.bsf bb) s = .next { s with response := some ⟨.ok,
      (Config.bitScanTable[(positionHash Config.debruijn64 k).val]'(positionHash Config.debruijn64 k).isLt).setWidth 32⟩ }

/-- R107 (42_bitscan.md): the unit's multiplier satisfies PH, `BST[h(k)] = k` for every k in 0..63, and that fixes all 64
entries: any table that inverts the hash is this one. The multiplier's value is PRESUMED (log 3). -/
def Obligations.BitScanTableInvertsTheHash : Prop :=
  PerfectHash Config.debruijn64 ∧ InvertsHash Config.debruijn64 Config.bitScanTable ∧
  ∀ table : Vector BitIndex 64, InvertsHash Config.debruijn64 table → table = Config.bitScanTable

/-- R109 (42_bitscan.md): the result of BSF does not depend on the choice of constant. For every multiplier that satisfies PH,
with its table built by R107, the data path gives ctz64(bb), which is what the unit answers in every state. -/
def Obligations.AnyPerfectMultiplierGivesTheSameResult : Prop :=
  ∀ (multiplier : Bitboard) (table : Vector BitIndex 64), PerfectHash multiplier → InvertsHash multiplier table →
    ∀ (s : State) (bb : Bitboard), bb ≠ 0 →
      ctz64 bb = some (scanWith multiplier table bb).toNat ∧
      exec (.bsf bb) s = .next { s with response := some ⟨.ok, (scanWith multiplier table bb).setWidth 32⟩ }

/-- R111 (f) (42_bitscan.md): bits above the lowest set bit never matter: `BSF bb = BSF (bb AND (0 - bb))`. -/
def Obligations.BsfIgnoresHigherBits : Prop :=
  ∀ (s : State) (bb : Bitboard), exec (.bsf bb) s = exec (.bsf (bb &&& (0 - bb))) s

/-- R49 (d), R101: the response of BSF depends on its own operand only, in every state, right after reset included. -/
def Obligations.BsfAnswersAlikeInEveryState : Prop :=
  ∀ bb : Bitboard, ∃ r : Response, ∀ s : State, exec (.bsf bb) s = .next { s with response := some r }

/-- R112 (42_bitscan.md): scanning and clearing the lowest bit visits the positions of the one-bits in ascending order, in
exactly as many scans as there are one-bits, after which a further scan faults. -/
def Obligations.ScanAndClearVisitsTheSetBits : Prop :=
  ∀ (s : State) (bb : Bitboard), bb ≠ 0 →
    ∃ idx : Nat → Nat,
      (∀ t : Nat, t < popcountRef bb → clearTimes t bb ≠ 0 ∧
        exec (.bsf (clearTimes t bb)) s = .next { s with response := some ⟨.ok, BitVec.ofNat 32 (idx t)⟩ }) ∧
      (∀ t u : Nat, t < u → u < popcountRef bb → idx t < idx u) ∧
      (∀ p : Nat, bb.getLsbD p = true ↔ ∃ t : Nat, t < popcountRef bb ∧ idx t = p) ∧
      clearTimes (popcountRef bb) bb = 0 ∧
      exec (.bsf (clearTimes (popcountRef bb) bb)) s =
        .next { s with response := some ⟨.preconditionViolation, 0xFFFFFFFF⟩ }

/-- The frame of the two queries (R91, R101: "State written: none"): every entry of BCT reads as before, READY is unchanged,
and so are the model's own fields. -/
def Obligations.QueryFrame : Prop :=
  ∀ (s t : State) (i : Instr), (∃ bb, i = .popcnt bb ∨ i = .bsf bb) → exec i s = .next t →
    (∀ a : TableIndex, t.bct.read a = s.bct.read a) ∧ t.ready = s.ready ∧
    t.inputs = s.inputs ∧ t.delivered = s.delivered

/-! ## Encoding -/

/-- R60, R62, R66: decoding the encoding of any operation gives it back with its operand; and a word that decodes to a query is
its encoding, bit for bit, while every word that decodes to INIT has `op = 0`. -/
def Obligations.DecodeAndEncodeAgree : Prop :=
  (∀ i : Instr, decode (encode i) = .ok i) ∧
  (∀ (w : CommandWord) (i : Instr), decode w = .ok i → i ≠ .init → encode i = w) ∧
  (∀ w : CommandWord, decode w = .ok .init → w.extractLsb' 64 2 = 0) ∧
  (∀ w : CommandWord, packCommand (splitWord w) = w)

/-- R66 (30_encoding.md), with R67 and R68: the decoder is total on all 2^66 words and follows the operation map's match and
mask rows; the operand is `CMD[63:0]`, and INIT ignores it. -/
def Obligations.DecodeFollowsTheOperationMap : Prop :=
  ∀ w : CommandWord,
    (w &&& opMask = initMatch ∨ w &&& opMask = popcntMatch ∨ w &&& opMask = bsfMatch ∨ w &&& opMask = reservedMatch) ∧
    (w &&& opMask = initMatch → decode w = .ok .init) ∧
    (w &&& opMask = popcntMatch → decode w = .ok (.popcnt (w.extractLsb' 0 64))) ∧
    (w &&& opMask = bsfMatch → decode w = .ok (.bsf (w.extractLsb' 0 64))) ∧
    (w &&& opMask = reservedMatch → decode w = .error (.reservedOp (w.extractLsb' 0 64)))

/-- Words written out from 30_encoding.md R60 and R62 and listed in 95_test_vectors.md decode to what they stand for. -/
def Obligations.ListedWordsDecode : Prop :=
  decode 0x00000000000000000#66 = .ok .init ∧
  decode 0x0DEADBEEFCAFEBABE#66 = .ok .init ∧
  decode 0x10123456789ABCDEF#66 = .ok (.popcnt 0x0123456789ABCDEF) ∧
  decode 0x28000000000000000#66 = .ok (.bsf 0x8000000000000000) ∧
  decode 0x30000000000000042#66 = .error (.reservedOp 0x42)

/-- R67 (30_encoding.md): every command with `op = 3`, whatever its operand, answers ILLEGAL_OP with the sentinel and changes
no state of the unit; the machine is then ready for the next input. -/
def Obligations.ReservedCodeAnswersIllegalOp : Prop :=
  ∀ (s : State) (q : Nat) (w : CommandWord) (rest : List Input), s.inputs = .command q w :: rest →
    w &&& opMask = reservedMatch →
    step s = .next { s with
      inputs := rest, response := none,
      delivered := s.delivered ++ [⟨q, ⟨.illegalOp, 0xFFFFFFFF⟩⟩] }

/-- R61, R63 (30_encoding.md): a response word is status then result, with the codes 0 to 3; responses and 34-bit words
correspond one to one. -/
def Obligations.ResponseWordLayout : Prop :=
  (∀ r : Response, (responseWord r).extractLsb' 0 32 = r.result ∧
    (responseWord r).extractLsb' 32 2 = (match r.status with
      | .ok => 0
      | .preconditionViolation => 1
      | .uninitializedTable => 2
      | .illegalOp => 3)) ∧
  (∀ r : Response, responseOf (responseWord r) = r) ∧
  (∀ w : ResponseWord, responseWord (responseOf w) = w)

/-- R69 (30_encoding.md), in the literals that log 10 chooses: the canonical line of every operation reads back as that
operation's command word with no annotation, and with each of R69's four annotations as that word with the response the
annotation expects. The canonical line itself (the mnemonic in upper case, the operand as `0x` and 16 digits) and the value
after OK as a hexadecimal literal of 32 bits, here written with 8 digits, are the model's choice (log 10), not R69's. -/
def Obligations.ListingLineReadsBack : Prop :=
  ∀ i : Instr, parseLine (listingLine i) = .ok (some (.command (encode i) none)) ∧
    (∀ v : ResultWord,
      parseLine (listingLine i ++ [' ', '-', '>', ' ', 'O', 'K', ' ', '0', 'x'] ++ hexText 8 v.toNat) =
        .ok (some (.command (encode i) (some ⟨.ok, v⟩)))) ∧
    parseLine (listingLine i ++ [' ', '-', '>', ' '] ++ textPrecondition) =
      .ok (some (.command (encode i) (some ⟨.preconditionViolation, 0xFFFFFFFF⟩))) ∧
    parseLine (listingLine i ++ [' ', '-', '>', ' '] ++ textUninitialized) =
      .ok (some (.command (encode i) (some ⟨.uninitializedTable, 0xFFFFFFFF⟩))) ∧
    parseLine (listingLine i ++ [' ', '-', '>', ' '] ++ textIllegal) =
      .ok (some (.command (encode i) (some ⟨.illegalOp, 0xFFFFFFFF⟩)))

/-! ## The step -/

/-- R14, R66, R81, R91, R101: a step whose next input is a command that decodes to i is exec of i with that input taken; if it
answers a next state, the response is handed to the requester of the command. -/
def Obligations.StepRunsTheDecodedCommand : Prop :=
  ∀ (s : State) (q : Nat) (w : CommandWord) (rest : List Input) (i : Instr),
    s.inputs = .command q w :: rest → decode w = .ok i →
    (∀ (t : State) (r : Response), exec i { s with inputs := rest } = .next t → t.response = some r →
      step s = .next { t with response := none, delivered := t.delivered ++ [⟨q, r⟩] }) ∧
    (∀ f : Fault, exec i { s with inputs := rest } = .fault f → step s = .fault f) ∧
    (∀ t : State, exec i { s with inputs := rest } = .next t → ∃ r, t.response = some r)

/-- The state `withFetchWord` gives runs the table word's operation as its very next step, from the state it was given
(log 4, log 12: how a program comes to run is the model's own). -/
def Obligations.PlacedWordRunsNext : Prop :=
  ∀ (s : State) (nbits w : Nat) (i : Instr), decodeTableWord nbits w = some i →
    step (s.withFetchWord nbits w) = deliverOutcome 0 (exec i s)

/-- R14 (00_scope.md): between commands the unit does nothing and its state does not change. -/
def Obligations.IdleStepChangesNothing : Prop :=
  ∀ s : State, s.inputs = [] → step s = .next s

/-- R127 (60_exceptions.md): a faulting command produces the response of its status code and the sentinel and nothing else; BCT
and READY are unchanged, and nothing is saved. It holds of the three operations and of the rejected word. -/
def Obligations.FaultChangesNothingButTheResponse : Prop :=
  (∀ (s t : State) (i : Instr) (r : Response), exec i s = .next t → t.response = some r → r.status ≠ .ok →
    r.result = 0xFFFFFFFF ∧ t = { s with response := some r }) ∧
  (∀ (s : State) (j : DecodeReject),
    rejectWord j s = .next { s with response := some ⟨.illegalOp, 0xFFFFFFFF⟩ })

/-- R128 (60_exceptions.md): faults are precise. A command that faults leaves the state as if it had never been issued, but for
the response its requester has, and the same command in that state raises the same fault again. -/
def Obligations.FaultsArePrecise : Prop :=
  ∀ (s t : State) (q : Nat) (w : CommandWord) (rest : List Input) (r : Response),
    s.response = none → s.inputs = .command q w :: rest → step s = .next t → t.delivered = s.delivered ++ [⟨q, r⟩] →
    r.status ≠ .ok →
    t = { s with inputs := rest, delivered := s.delivered ++ [⟨q, r⟩] } ∧
    ∃ u : State, step { t with inputs := .command q w :: rest } = .next u ∧ u.delivered = t.delivered ++ [⟨q, r⟩]

/-- R15, R161: from every state that meets the invariant of R23 a step answers a next state; the machine never stops. -/
def Obligations.EveryStepCompletes : Prop :=
  ∀ s : State, s.Inv → s.Steps

/-- R61, R17: exactly one response per accepted command, delivered to the requester that issued it, and none for a reset. -/
def Obligations.OneResponsePerCommand : Prop :=
  (∀ (s : State) (q : Nat) (w : CommandWord) (rest : List Input), s.Inv → s.inputs = .command q w :: rest →
    ∃ (t : State) (r : Response), step s = .next t ∧ t.delivered = s.delivered ++ [⟨q, r⟩] ∧ t.response = none ∧
      t.inputs = rest) ∧
  (∀ (s t : State), (∀ q w rest, s.inputs ≠ .command q w :: rest) → step s = .next t → t.delivered = s.delivered)

/-- R65 (30_encoding.md): on status OK the result is 0 for INIT, in 0..64 for POPCNT and in 0..63 for BSF; on any other status
it is the sentinel. -/
def Obligations.EveryResultIsInItsRange : Prop :=
  (∀ (s t : State) (i : Instr) (r : Response), s.TableSound → exec i s = .next t → t.response = some r →
    r.wellFormed = true ∧
    (r.status = .ok → match i with
      | .init => r.result = 0
      | .popcnt bb => r.result = BitVec.ofNat 32 (popcountRef bb) ∧ r.result.toNat ≤ 64
      | .bsf bb => ctz64 bb = some r.result.toNat ∧ r.result.toNat ≤ 63) ∧
    (r.status ≠ .ok → r.result = 0xFFFFFFFF)) ∧
  (∀ (s t : State) (j : DecodeReject), rejectWord j s = .next t → t.response = some ⟨.illegalOp, 0xFFFFFFFF⟩)

/-- R124 (60_exceptions.md), the full outcome table: in every state that meets the invariant of R23, every one of the 2^66
command words is answered as the table says, and BCT and READY are unchanged but by INIT, which fills BCT and sets READY. -/
def Obligations.EveryCommandFollowsTheOutcomeTable : Prop :=
  ∀ (s : State) (q : Nat) (w : CommandWord) (rest : List Input), s.Inv → s.inputs = .command q w :: rest →
    ∃ t : State, step s = .next t ∧ t.inputs = rest ∧ t.response = none ∧
      t.delivered = s.delivered ++ [⟨q, referenceAnswer s.ready w⟩] ∧
      (w.extractLsb' 64 2 = 0 → t.ready = true ∧ Counted t.bct ∧ (s.ready = true → t.bct = s.bct)) ∧
      (w.extractLsb' 64 2 ≠ 0 → t.ready = s.ready ∧ t.bct = s.bct)

/-- R49 (a) (20_memory.md), R15: any run is its inputs executed one after another in acceptance order. The machine, with its
table and its arithmetic, refines a machine whose whole state is READY and whose answers are the reference functions'. -/
def Obligations.EveryRunRefinesTheReference : Prop :=
  ∀ s : State, s.Inv →
    ∃ t : State, s.runAll = .next t ∧ t.Inv ∧ t.inputs = [] ∧
      t.ready = (referenceRun s.ready s.inputs).1 ∧
      t.delivered = s.delivered ++ (referenceRun s.ready s.inputs).2

/-- R49 (b) (20_memory.md), for a POPCNT anywhere in any run, resets included: it answers OK with the exact count if an INIT was
accepted since the last reset, and UninitializedTableAccess if none was, whoever issued the other commands. Its response stands
after those of the commands accepted before it. READY = 1 at the start of the run stands for an INIT accepted before the run. -/
def Obligations.PopcntAnswersByWhetherInitCameFirst : Prop :=
  ∀ (s : State) (before after : List Input) (q : Nat) (bb : Bitboard), s.Inv →
    s.inputs = before ++ .command q (encode (.popcnt bb)) :: after →
    ∃ (t : State) (earlier later : List Delivery), s.runAll = .next t ∧
      earlier.length = before.countP Input.isCommand ∧
      (InitSinceReset s.ready before →
        t.delivered = s.delivered ++ earlier ++ ⟨q, ⟨.ok, BitVec.ofNat 32 (popcountRef bb)⟩⟩ :: later) ∧
      (¬ InitSinceReset s.ready before →
        t.delivered = s.delivered ++ earlier ++ ⟨q, ⟨.uninitializedTable, 0xFFFFFFFF⟩⟩ :: later)

/-- R49 (c) (20_memory.md), R137: once READY = 1, what a requester receives depends on its own commands only. Under any two
interleavings that agree on that requester's own commands, it receives the same responses, whatever the others do. -/
def Obligations.ARequesterSeesOnlyItsOwnCommands : Prop :=
  ∀ (s t : State) (q : Nat), s.Inv → t.Inv → s.ready = true → t.ready = true →
    (∀ i ∈ s.inputs, i.isCommand = true) → (∀ i ∈ t.inputs, i.isCommand = true) →
    commandsOf q s.inputs = commandsOf q t.inputs → responsesTo q s.delivered = responsesTo q t.delivered →
    ∃ s' t' : State, s.runAll = .next s' ∧ t.runAll = .next t' ∧
      responsesTo q s'.delivered = responsesTo q t'.delivered

/-- R156 (70_reset_and_hazards.md): the command accepted immediately after INIT already sees READY = 1. From any state
whatever, a POPCNT right after an INIT answers the exact count; this is also the safe protocol of R155. -/
def Obligations.PopcntRightAfterInitIsExact : Prop :=
  ∀ (s : State) (q r : Nat) (w : CommandWord) (bb : Bitboard) (rest : List Input),
    decode w = .ok .init → s.inputs = .command q w :: .command r (encode (.popcnt bb)) :: rest →
    ∃ t : State, Host.Core.run core 2 s = .next t ∧ t.ready = true ∧ t.inputs = rest ∧
      t.delivered = s.delivered ++ [⟨q, ⟨.ok, 0⟩⟩, ⟨r, ⟨.ok, BitVec.ofNat 32 (popcountRef bb)⟩⟩]
end

