-- ==== Sys2Proof/Laws/PerInstr.lean ====
section
/-! SUPPORT. Statements made per instruction. CommandFields: the fields of an operation's word are those of its command, so no
bit of the operation code or of the operand is lost in packing (R60, R62). -/

namespace Sys2Proof

/-- The bits of a packed command: the operand below bit 64, the operation code from bit 64 up (R60). -/
theorem packCommand_getLsbD (c : Command) (i : Nat) :
    (packCommand c).getLsbD i = if i < 64 then c.bb.getLsbD i else c.op.getLsbD (i - 64) :=
  BitVec.getLsbD_append

/-- Splitting what packing made gives the command back (R60). -/
theorem splitWord_packCommand (c : Command) : splitWord (packCommand c) = c := by
  cases c with | mk op bb =>
  have hop : (packCommand ⟨op, bb⟩).extractLsb' 64 2 = op := by
    ext i hi
    simp [packCommand_getLsbD, hi]
  have hbb : (packCommand ⟨op, bb⟩).extractLsb' 0 64 = bb := by
    ext i hi
    simp [packCommand_getLsbD, hi]
  simp only [splitWord, hop, hbb]

/-- The family CommandFields. -/
def Laws.CommandFields.Statement (i : Instr) : Prop := splitWord (encode i) = encodeCommand i

theorem Laws.CommandFields.init : Laws.CommandFields.Statement .init := splitWord_packCommand _
theorem Laws.CommandFields.popcnt (bb : Bitboard) : Laws.CommandFields.Statement (.popcnt bb) := splitWord_packCommand _
theorem Laws.CommandFields.bsf (bb : Bitboard) : Laws.CommandFields.Statement (.bsf bb) := splitWord_packCommand _

end Sys2Proof
end

