-- ==== Sys2Proof/Laws/State.lean ====
section
/-! SUPPORT. One lemma per field per update of State, so that no proof unfolds a record update; two states with equal fields
are equal, and two tables that read alike are equal. -/

namespace Sys2Proof.Machine

@[simp] theorem State.setReady_bct (s : State) : s.setReady.bct = s.bct := rfl
@[simp] theorem State.setReady_ready (s : State) : s.setReady.ready = true := rfl
@[simp] theorem State.setReady_response (s : State) : s.setReady.response = s.response := rfl
@[simp] theorem State.setReady_inputs (s : State) : s.setReady.inputs = s.inputs := rfl
@[simp] theorem State.setReady_delivered (s : State) : s.setReady.delivered = s.delivered := rfl

@[simp] theorem State.clearReady_bct (s : State) : s.clearReady.bct = s.bct := rfl
@[simp] theorem State.clearReady_ready (s : State) : s.clearReady.ready = false := rfl
@[simp] theorem State.clearReady_response (s : State) : s.clearReady.response = s.response := rfl
@[simp] theorem State.clearReady_inputs (s : State) : s.clearReady.inputs = s.inputs := rfl
@[simp] theorem State.clearReady_delivered (s : State) : s.clearReady.delivered = s.delivered := rfl

@[simp] theorem State.respond_bct (s : State) (v : ResultWord) : (s.respond v).bct = s.bct := rfl
@[simp] theorem State.respond_ready (s : State) (v : ResultWord) : (s.respond v).ready = s.ready := rfl
@[simp] theorem State.respond_response (s : State) (v : ResultWord) :
    (s.respond v).response = some { status := .ok, result := v } := rfl
@[simp] theorem State.respond_inputs (s : State) (v : ResultWord) : (s.respond v).inputs = s.inputs := rfl
@[simp] theorem State.respond_delivered (s : State) (v : ResultWord) : (s.respond v).delivered = s.delivered := rfl

@[simp] theorem State.raise_bct (s : State) (f : CommandFault) : (s.raise f).bct = s.bct := rfl
@[simp] theorem State.raise_ready (s : State) (f : CommandFault) : (s.raise f).ready = s.ready := rfl
@[simp] theorem State.raise_response (s : State) (f : CommandFault) :
    (s.raise f).response = some (faultResponse f) := rfl
@[simp] theorem State.raise_inputs (s : State) (f : CommandFault) : (s.raise f).inputs = s.inputs := rfl
@[simp] theorem State.raise_delivered (s : State) (f : CommandFault) : (s.raise f).delivered = s.delivered := rfl

@[simp] theorem State.resetUnit_bct (s : State) : s.resetUnit.bct = ByteCountTable.unspecified := rfl
@[simp] theorem State.resetUnit_ready (s : State) : s.resetUnit.ready = false := rfl
@[simp] theorem State.resetUnit_response (s : State) : s.resetUnit.response = none := rfl
@[simp] theorem State.resetUnit_inputs (s : State) : s.resetUnit.inputs = s.inputs := rfl
@[simp] theorem State.resetUnit_delivered (s : State) : s.resetUnit.delivered = s.delivered := rfl

@[simp] theorem State.takeInput_bct (s : State) (l : List Input) : (s.takeInput l).bct = s.bct := rfl
@[simp] theorem State.takeInput_ready (s : State) (l : List Input) : (s.takeInput l).ready = s.ready := rfl
@[simp] theorem State.takeInput_response (s : State) (l : List Input) : (s.takeInput l).response = s.response := rfl
@[simp] theorem State.takeInput_inputs (s : State) (l : List Input) : (s.takeInput l).inputs = l := rfl
@[simp] theorem State.takeInput_delivered (s : State) (l : List Input) : (s.takeInput l).delivered = s.delivered := rfl

@[simp] theorem State.present_bct (s : State) (q : Nat) (w : CommandWord) : (s.present q w).bct = s.bct := rfl
@[simp] theorem State.present_ready (s : State) (q : Nat) (w : CommandWord) : (s.present q w).ready = s.ready := rfl
@[simp] theorem State.present_response (s : State) (q : Nat) (w : CommandWord) :
    (s.present q w).response = s.response := rfl
@[simp] theorem State.present_inputs (s : State) (q : Nat) (w : CommandWord) :
    (s.present q w).inputs = .command q w :: s.inputs := rfl
@[simp] theorem State.present_delivered (s : State) (q : Nat) (w : CommandWord) :
    (s.present q w).delivered = s.delivered := rfl

@[simp] theorem State.deliver_bct (s : State) (q : Nat) : (s.deliver q).bct = s.bct := by
  unfold State.deliver; split <;> rfl
@[simp] theorem State.deliver_ready (s : State) (q : Nat) : (s.deliver q).ready = s.ready := by
  unfold State.deliver; split <;> rfl
@[simp] theorem State.deliver_response (s : State) (q : Nat) : (s.deliver q).response = none := by
  unfold State.deliver; split <;> simp_all
@[simp] theorem State.deliver_inputs (s : State) (q : Nat) : (s.deliver q).inputs = s.inputs := by
  unfold State.deliver; split <;> rfl
theorem State.deliver_delivered_of_some {s : State} {r : Response} (q : Nat) (h : s.response = some r) :
    (s.deliver q).delivered = s.delivered ++ [⟨q, r⟩] := by
  unfold State.deliver; rw [h]

/-- What delivering does, once: the port is emptied and its response is the last one delivered. -/
theorem State.deliver_of_some {s : State} {r : Response} (q : Nat) (h : s.response = some r) :
    s.deliver q = { s with response := none, delivered := s.delivered ++ [⟨q, r⟩] } := by
  unfold State.deliver; rw [h]

theorem State.ext_fields {s t : State} (hb : s.bct = t.bct) (hr : s.ready = t.ready) (hp : s.response = t.response)
    (hi : s.inputs = t.inputs) (hd : s.delivered = t.delivered) : s = t := by
  cases s; cases t; simp_all

end Sys2Proof.Machine
end

