-- ==== Sys2Proof/Laws/Step.lean ====
section
/-! SUPPORT. What each instruction, and a step, can do when it answers a next state, said once (R15, R91, R101). -/

namespace Sys2Proof.Machine

@[simp] theorem deliverOutcome_next (q : Nat) (s : State) : deliverOutcome q (.next s) = .next (s.deliver q) := rfl
@[simp] theorem deliverOutcome_fault (q : Nat) (f : Fault) : deliverOutcome q (.fault f) = .fault f := rfl
@[simp] theorem deliverOutcome_refused (q : Nat) (r : Refusal) : deliverOutcome q (.refused r) = .refused r := rfl

@[simp] theorem faultResponse_result (f : CommandFault) : (faultResponse f).result = sentinel := rfl
@[simp] theorem faultResponse_status (f : CommandFault) : (faultResponse f).status = faultStatus f := rfl

theorem deliverOutcome_eq_next {q : Nat} {o : Host.Outcome State Fault Refusal} {t : State}
    (h : deliverOutcome q o = .next t) : ∃ u, o = .next u ∧ t = u.deliver q := by
  cases o with
  | next u => exact ⟨u, rfl, by simpa using h.symm⟩
  | fault f => simp at h
  | refused r => simp at h

/-- The table INIT leaves is the loop's after its last index (R81). -/
theorem builtTable_eq (t : ByteCountTable) : builtTable t = initUpTo t 255 := by unfold builtTable; rfl

/-- INIT always completes: the table its loop built, READY set, and the answer 0. -/
theorem execInit_eq (s : State) :
    execInit s = .next { s with bct := builtTable s.bct, ready := true, response := some ⟨.ok, 0⟩ } := rfl

theorem execInit_next {s t : State} (h : execInit s = .next t) :
    t = { s with bct := builtTable s.bct, ready := true, response := some ⟨.ok, 0⟩ } := by
  simpa [execInit_eq] using h.symm

/-- POPCNT, when it completes: the sum with READY = 1, the fault's response with READY = 0. -/
theorem execPopcnt_next {bb : Bitboard} {s t : State} (h : execPopcnt bb s = .next t) :
    (s.ready = true ∧ ∃ v, sumBytes s.bct bb byteNumbers 0 = .ok v ∧ t = s.respond (v.setWidth 32)) ∨
    (s.ready = false ∧ t = s.raise .uninitializedTableAccess) := by
  unfold execPopcnt at h
  split at h
  · next hr =>
    split at h
    · next v hv => exact .inl ⟨hr, v, hv, by simpa using h.symm⟩
    · cases h
  · next hr => exact .inr ⟨by simpa using hr, by simpa using h.symm⟩

/-- BSF always completes, by the data path or the fault. -/
theorem execBsf_next {bb : Bitboard} {s t : State} (h : execBsf bb s = .next t) :
    (bb ≠ 0 ∧ t = s.respond ((scanWith Config.debruijn64 Config.bitScanTable bb).setWidth 32)) ∨
    (bb = 0 ∧ t = s.raise .preconditionViolation) := by
  unfold execBsf at h
  split at h
  · next hb => exact .inr ⟨hb, by simpa using h.symm⟩
  · next hb => exact .inl ⟨hb, by simpa using h.symm⟩

/-- A word the decoder rejects is answered with IllegalOp. -/
theorem rejectWord_next {j : DecodeReject} {s t : State} (h : rejectWord j s = .next t) : t = s.raise .illegalOp := by
  cases j
  simpa [rejectWord, rejectFault] using h.symm

/-- Every way a step can answer a next state. -/
theorem step_next_cases {s t : State} (h : step s = .next t) :
    (s.inputs = [] ∧ t = s) ∨
    (∃ rest, (s.inputs = .reset :: rest ∨ ∃ q w, s.inputs = .abandoned q w :: rest) ∧
      t = (s.takeInput rest).resetUnit) ∨
    (∃ q w rest i u, s.inputs = .command q w :: rest ∧ decode w = .ok i ∧
      exec i (s.takeInput rest) = .next u ∧ t = u.deliver q) ∨
    (∃ q w rest j, s.inputs = .command q w :: rest ∧ decode w = .error j ∧
      t = ((s.takeInput rest).raise .illegalOp).deliver q) := by
  unfold step at h
  split at h
  · next hi => exact .inl ⟨hi, by simpa using h.symm⟩
  · next rest hi => exact .inr (.inl ⟨rest, .inl hi, by simpa using h.symm⟩)
  · next q w rest hi => exact .inr (.inl ⟨rest, .inr ⟨q, w, hi⟩, by simpa using h.symm⟩)
  · next q w rest hi =>
    split at h
    · next i hd =>
      obtain ⟨u, hu, rfl⟩ := deliverOutcome_eq_next h
      exact .inr (.inr (.inl ⟨q, w, rest, i, u, hi, hd, hu, rfl⟩))
    · next j hd =>
      obtain ⟨u, hu, rfl⟩ := deliverOutcome_eq_next h
      obtain rfl := rejectWord_next hu
      exact .inr (.inr (.inr ⟨q, w, rest, j, hi, hd, rfl⟩))

end Sys2Proof.Machine
end

