-- ==== Sys2Proof/Laws/Table.lean ====
section
/-! SUPPORT. The laws of ByteCountTable: a read after a write, the unspecified table, and extensionality. -/

namespace Sys2Proof.Machine

/-- A read of the entry just written gives the value written (R41). -/
@[simp] theorem ByteCountTable.read_write_same (t : ByteCountTable) (i : TableIndex) (v : Option Count) :
    (t.write i v).read i = v := by
  simp [ByteCountTable.read, ByteCountTable.write]

/-- A write leaves every other entry alone (R41). -/
theorem ByteCountTable.read_write_ne (t : ByteCountTable) {i j : TableIndex} (v : Option Count) (h : i ≠ j) :
    (t.write i v).read j = t.read j := by
  have : i.toNat ≠ j.toNat := fun e => h (BitVec.eq_of_toNat_eq e)
  simp [ByteCountTable.read, ByteCountTable.write, Vector.getElem_set_ne, this]

/-- A read after a write, in one equation. -/
theorem ByteCountTable.read_write (t : ByteCountTable) (i j : TableIndex) (v : Option Count) :
    (t.write i v).read j = if i = j then v else t.read j := by
  split
  · next h => subst h; exact read_write_same t i v
  · next h => exact read_write_ne t v h

/-- No entry of the unspecified table has a value (R21). -/
@[simp] theorem ByteCountTable.read_unspecified (i : TableIndex) : ByteCountTable.unspecified.read i = none := by
  simp [ByteCountTable.read, ByteCountTable.unspecified]

/-- Tables that read alike are equal data: the representation is canonical. -/
theorem ByteCountTable.eq_of_reads {t u : ByteCountTable} (h : ∀ i : TableIndex, t.read i = u.read i) : t = u := by
  cases t with | mk t =>
  cases u with | mk u =>
  congr 1
  ext1 i hi
  simpa [ByteCountTable.read, Nat.mod_eq_of_lt hi] using h (BitVec.ofNat 8 i)

/-- Writing the value an entry already holds changes nothing. -/
theorem ByteCountTable.write_read {t : ByteCountTable} {i : TableIndex} {v : Option Count} (h : t.read i = v) :
    t.write i v = t := by
  apply eq_of_reads
  intro j
  rw [read_write]
  split
  · next e => rw [← e, h]
  · rfl

end Sys2Proof.Machine
end

