-- ==== Sys2Proof/Tests/Slice0.lean ====
section
/-! SUPPORT. The model's own tests: the well-formedness smoke, words written out from the spec's encodings, one step on small
states with results from 95_test_vectors.md and the document's worked examples, and a witness for the hypotheses of every
statement. -/

namespace Sys2Proof.Tests
open Sys2Proof Sys2Proof.Machine

/-! ## Helpers -/

/-- The table of 95_test_vectors.md section 2.1, by the closed form of R83. -/
def countedTable : ByteCountTable :=
  { entries := Vector.ofFn (fun i => some (BitVec.ofNat 4 (popcountRef (BitVec.ofNat 8 i.val)))) }

theorem countedTable_counted : Counted countedTable := by
  intro i
  simp [ByteCountTable.read, countedTable]

/-- A state after INIT. -/
def readyState : State := { State.reset with bct := countedTable, ready := true }

theorem readyState_inv : readyState.Inv := ⟨fun _ => countedTable_counted, rfl⟩

theorem reset_inv : State.reset.Inv := ⟨fun h => Bool.noConfusion h, rfl⟩

/-- A state with READY = 1 and no entry of BCT: no run reaches it. -/
def emptyReadyState : State := { State.reset with ready := true }

/-- The response an instruction leaves on the port, if it answers a next state. -/
def answer (o : Host.Outcome State Fault Refusal) : Option Response :=
  match o with
  | .next s => s.response
  | .fault _ => none
  | .refused _ => none

/-- What a step leaves observable: READY, the inputs still to come and the responses delivered. -/
def seen (o : Host.Outcome State Fault Refusal) : Option (Bool × List Input × List Delivery) :=
  match o with
  | .next s => some (s.ready, s.inputs, s.delivered)
  | .fault _ => none
  | .refused _ => none

/-! ## Well-formedness smoke: an ill-formed term for each check (R62, R65, R67) -/

theorem test_reserved_op_is_not_legal : Command.legal { op := 3, bb := 0x42 } = false := by decide
theorem test_bsf_command_is_legal : Command.legal { op := 2, bb := 0 } = true := by decide
theorem test_ok_above_64_is_ill_formed : Response.wellFormed { status := .ok, result := 65 } = false := by decide
theorem test_ok_64_is_well_formed : Response.wellFormed { status := .ok, result := 64 } = true := by decide
theorem test_precondition_without_sentinel_is_ill_formed :
    Response.wellFormed { status := .preconditionViolation, result := 63 } = false := by decide
theorem test_uninitialized_without_sentinel_is_ill_formed :
    Response.wellFormed { status := .uninitializedTable, result := 0 } = false := by decide
theorem test_illegal_without_sentinel_is_ill_formed :
    Response.wellFormed { status := .illegalOp, result := 0 } = false := by decide

/-! ## Decoding: `op` in bits 65:64, `bb` in bits 63:0 (R60, R62); words from 95_test_vectors.md I1, I3, PC13, B2, X3 -/

theorem test_decode_init : decode (0b00#2 ++ 0x0000000000000000#64) = .ok .init := by decide
theorem test_decode_init_ignores_bb : decode 0x0DEADBEEFCAFEBABE#66 = .ok .init := by decide
theorem test_decode_popcnt : decode (0b01#2 ++ 0x0123456789ABCDEF#64) = .ok (.popcnt 0x0123456789ABCDEF) := by decide
theorem test_decode_bsf : decode (0b10#2 ++ 0x8000000000000000#64) = .ok (.bsf 0x8000000000000000) := by decide
theorem test_decode_reserved : decode 0x30000000000000042#66 = .error (.reservedOp 0x42) := by decide
theorem test_encode_init : encode .init = 0x00000000000000000#66 := by decide
theorem test_encode_popcnt : encode (.popcnt 0x0123456789ABCDEF) = 0x10123456789ABCDEF#66 := by decide
theorem test_encode_bsf : encode (.bsf 0x8000000000000000) = 0x28000000000000000#66 := by decide
theorem test_table_word_of_nine_bytes : decodeTableWord 72 0x10000000000000042 = some (.popcnt 0x42) := by decide
theorem test_table_word_too_wide : decodeTableWord 72 0x40000000000000000 = none := by decide

/-! ## Responses as words (95_test_vectors.md conventions; PC2, B20) -/

theorem test_response_word_ok : responseWord { status := .ok, result := 64 } = 0x000000040#34 := by decide
theorem test_response_words_of_faults :
    responseWord (faultResponse .preconditionViolation) = 0x1FFFFFFFF#34 ∧
    responseWord (faultResponse .uninitializedTableAccess) = 0x2FFFFFFFF#34 ∧
    responseWord (faultResponse .illegalOp) = 0x3FFFFFFFF#34 := by decide

/-! ## INIT (40_init.md R81's worked example; 95_test_vectors.md I1, I3 and the spot checks of 2.1) -/

theorem test_init_first_entries :
    (initUpTo ByteCountTable.unspecified 3).read 3 = some 2 ∧
    (initUpTo ByteCountTable.unspecified 3).read 0 = some 0 ∧
    (initUpTo ByteCountTable.unspecified 3).read 4 = none := by decide +kernel

theorem test_init_step_answers_ok :
    seen (step (State.reset.withFetchWord 66 0x0DEADBEEFCAFEBABE)) =
      some (true, [], [⟨0, { status := .ok, result := 0 }⟩]) := by decide +kernel

/-! ## POPCNT (95_test_vectors.md PC13, PC2, PC26) -/

theorem test_popcnt_every_byte_different :
    answer (exec (.popcnt 0x0123456789ABCDEF) readyState) = some { status := .ok, result := 32 } := by decide +kernel

theorem test_popcnt_all_ones_and_too_early :
    answer (exec (.popcnt 0xFFFFFFFFFFFFFFFF) readyState) = some { status := .ok, result := 64 } ∧
    answer (exec (.popcnt 0) State.reset) = some { status := .uninitializedTable, result := 0xFFFFFFFF } := by
  decide +kernel

/-! ## BSF (95_test_vectors.md B13, B11, B20, Z4) -/

theorem test_bsf_ignores_higher_bits :
    answer (exec (.bsf 0xDEADBEEFCAFEBABE) State.reset) = some { status := .ok, result := 1 } ∧
    answer (exec (.bsf 0xC000000000000000) State.reset) = some { status := .ok, result := 62 } := by decide +kernel

theorem test_bsf_zero_is_rejected :
    answer (exec (.bsf 0) readyState) = some { status := .preconditionViolation, result := 0xFFFFFFFF } := by decide

/-! ## The reserved code, reset, and reset during a command (95_test_vectors.md X2, Z1; R152) -/

theorem test_reserved_word_step :
    seen (step (State.reset.present 5 0x3FFFFFFFFFFFFFFFF#66)) =
      some (false, [], [⟨5, { status := .illegalOp, result := 0xFFFFFFFF }⟩]) := by decide +kernel

theorem test_reset_clears_ready :
    seen (step { readyState with inputs := [.reset] }) = some (false, [], []) := by decide +kernel

theorem test_abandoned_command_answers_nothing :
    seen (step { readyState with inputs := [.abandoned 0 0x00000000000000000#66] }) = some (false, [], []) := by
  decide +kernel

/-! ## Listings (30_encoding.md R69, R70; lines of 95_test_vectors.md P1 and P2) -/

theorem test_line_with_comment_and_annotation :
    parseLine ['p', 'o', 'p', 'c', 'n', 't', ' ', '0', 'x', 'F', '_', 'f', ' ', '-', '>', ' ', 'O', 'K', ' ', '8', ' ', ';', 'h'] =
      .ok (some (.command 0x100000000000000FF#66 (some { status := .ok, result := 8 }))) := by decide +kernel

theorem test_raw_line :
    parseLine (['.', 'c', 'm', 'd', ' ', '0', 'x'] ++ '3' :: List.replicate 16 '0' ++ [' ', '-', '>', ' '] ++ textIllegal) =
      .ok (some (.command 0x30000000000000000#66 (some { status := .illegalOp, result := 0xFFFFFFFF }))) := by decide +kernel

theorem test_aliases_and_reset :
    parseLine (aliasInitialize ++ ['\t']) = .ok (some (.command 0#66 none)) ∧
    parseLine (aliasBitScanForwardCamel ++ [' ', '6', '6']) = .ok (some (.command 0x20000000000000042#66 none)) ∧
    parseLine [' ', 'R', 'E', 'S', 'E', 'T'] = .ok (some .reset) ∧
    parseLine [' ', ';', 'x'] = .ok none := by decide +kernel

theorem test_lines_that_are_none :
    parseLine ['H', 'A', 'L', 'T'] = .error .unknownMnemonic ∧
    parseLine ['B', 'S', 'F'] = .error .wrongOperands ∧
    parseLine ['B', 'S', 'F', ' ', '0', 'x', '_', '1'] = .error .badLiteral ∧
    parseLine ['I', 'N', 'I', 'T', '-', '>', 'O', 'K'] = .error .badAnnotation := by decide +kernel

/-! ## Witnesses: for every statement with hypotheses, a state and operands that meet all of them together -/

/-- An INIT word, a POPCNT word and a reserved word. -/
def wInit : CommandWord := 0x0DEADBEEFCAFEBABE#66
def wPopcnt : CommandWord := 0x100000000000000FF#66
def wReserved : CommandWord := 0x30000000000000042#66

/-- A state with given inputs. -/
def withInputs (s : State) (l : List Input) : State := { s with inputs := l }

theorem witness_ResetFromAnyState :
    ((withInputs readyState [.reset, .reset]).inputs = .reset :: .reset :: [] ∧
      ∃ t u, step (withInputs readyState [.reset, .reset]) = .next t ∧ step t = .next u) ∧
    (∃ t, step (withInputs readyState [.abandoned 1 wInit]) = .next t ∧ readyState.ready = true ∧ t.ready = false) ∧
    (∃ t, step (withInputs readyState [.reset]) = .next t ∧ readyState.ready = true ∧ t.ready = false) :=
  ⟨⟨rfl, _, _, rfl, rfl⟩, ⟨_, rfl, rfl, rfl⟩, ⟨_, rfl, rfl, rfl⟩⟩

theorem witness_ResetDuringACommand :
    (withInputs readyState [.abandoned 3 wInit, .reset]).inputs = .abandoned 3 wInit :: [.reset] := rfl

theorem witness_ResetLeavesTheEnvironment :
    (withInputs readyState [.reset, .command 0 wInit]).inputs = .reset :: [.command 0 wInit] ∧
    (withInputs readyState [.abandoned 0 wPopcnt]).inputs = .abandoned 0 wPopcnt :: [] := ⟨rfl, rfl⟩

theorem witness_EveryStepKeepsTheTableSound :
    (withInputs State.reset [.command 0 wInit]).Inv ∧ ∃ t, step (withInputs State.reset [.command 0 wInit]) = .next t :=
  ⟨⟨fun h => Bool.noConfusion h, rfl⟩, _, rfl⟩

theorem witness_EveryStepKeepsTheUnbuiltTableAbsent :
    (withInputs State.reset [.command 0 wPopcnt]).UnbuiltTableAbsent ∧
    ∃ t, step (withInputs State.reset [.command 0 wPopcnt]) = .next t :=
  ⟨fun _ i => ByteCountTable.read_unspecified i, _, rfl⟩

theorem witness_OnlyInitSetsReadyOnlyResetClearsIt :
    (∃ t, step (withInputs State.reset [.command 0 wInit]) = .next t ∧ State.reset.ready = false ∧ t.ready = true) ∧
    (∃ t, step (withInputs readyState [.reset]) = .next t ∧ readyState.ready = true ∧ t.ready = false) :=
  ⟨⟨_, rfl, rfl, rfl⟩, ⟨_, rfl, rfl, rfl⟩⟩

theorem witness_OnlyInitAndResetChangeTheTable :
    ∃ t, step (withInputs readyState [.reset]) = .next t ∧ t.bct.read 7 ≠ readyState.bct.read 7 := by
  refine ⟨_, rfl, ?_⟩
  rw [show readyState.bct.read 7 = some 3 by decide +kernel]
  simp

theorem witness_UnspecifiedTableIsNeverRead : State.reset.ready = false := rfl

theorem witness_InitFollowsTheRecurrence :
    (∃ t, exec .init State.reset = .next t) ∧ (1 : TableIndex) ≠ 0 ∧ (255 : TableIndex) ≠ 0 :=
  ⟨⟨_, rfl⟩, by decide, by decide⟩

theorem witness_InitNeverOverflowsAnEntry :
    (∃ t, exec .init readyState = .next t) ∧ (1 : TableIndex) ≠ 0 ∧ (255 : TableIndex) ≠ 0 :=
  ⟨⟨_, rfl⟩, by decide, by decide⟩

theorem witness_RepeatedInitIsIdempotent :
    readyState.TableSound ∧ readyState.ready = true ∧ (∃ t, exec .init readyState = .next t) ∧
    ∃ t, exec (.bsf 0) readyState = .next t :=
  ⟨readyState_inv.1, rfl, ⟨_, rfl⟩, ⟨_, rfl⟩⟩

theorem witness_InitFrame : ∃ t, exec .init State.reset = .next t := ⟨_, rfl⟩

theorem witness_PopcntReturnsTheBitCount : readyState.TableSound ∧ readyState.ready = true := ⟨readyState_inv.1, rfl⟩

theorem witness_PopcntSumsEightEntries :
    readyState.ready = true ∧
    ∀ j : Fin 8, readyState.bct.read ((0xFFFFFFFFFFFFFFFF : Bitboard).extractLsb' (8 * j.val) 8) = some 8 := by
  refine ⟨rfl, ?_⟩
  decide +kernel

theorem witness_PopcntBeforeInitFaults :
    State.reset.ready = false ∧
    (∃ t v, exec (.popcnt 0) State.reset = .next t ∧ t.response = some ⟨.uninitializedTable, v⟩) ∧
    ∃ t, rejectWord (.reservedOp 0) State.reset = .next t :=
  ⟨rfl, ⟨_, _, rfl, rfl⟩, ⟨_, rfl⟩⟩

theorem witness_PopcntStopsOnlyOnAnAbsentEntry :
    emptyReadyState.ready = true ∧
    (∀ j : Fin 8, emptyReadyState.bct.read ((0 : Bitboard).extractLsb' (8 * j.val) 8) = none) ∧
    exec (.popcnt 0) emptyReadyState = .fault (.unspecifiedEntryRead 0) := by
  refine ⟨rfl, fun j => ByteCountTable.read_unspecified _, by rfl⟩

theorem witness_PopcntResultRange : readyState.TableSound ∧ readyState.ready = true := ⟨readyState_inv.1, rfl⟩

theorem witness_ByteOrderDoesNotMatter :
    (∀ i : TableIndex, countedTable.read i ≠ none) ∧ [7, 6, 5, 4, 3, 2, 1, 0].Perm byteNumbers :=
  ⟨fun i => by rw [countedTable_counted i]; simp, by decide⟩

theorem witness_PopcntCountsTheClearings : readyState.TableSound ∧ readyState.ready = true := ⟨readyState_inv.1, rfl⟩

theorem witness_BsfReturnsTheLowestSetBit : (1 : Bitboard) ≠ 0 ∧ (0x8000000000000000 : Bitboard) ≠ 0 := by decide

theorem witness_BsfOfZeroFaults :
    (∃ t v, exec (.bsf 0) readyState = .next t ∧ t.response = some ⟨.preconditionViolation, v⟩) ∧
    ∃ t, rejectWord (.reservedOp 0) readyState = .next t := ⟨⟨_, _, rfl, rfl⟩, ⟨_, rfl⟩⟩

theorem witness_ScanMaskIsTheLowOnes :
    ctz64 0x0000000000000001 = some 0 ∧ ctz64 0x8000000000000000 = some 63 := by decide +kernel

theorem witness_ScanHashDependsOnThePositionOnly :
    ctz64 0x0000000000000001 = some (0 : Fin 64).val ∧ ctz64 0x8000000000000000 = some (63 : Fin 64).val := by decide +kernel

theorem witness_BitScanTableInvertsTheHash : InvertsHash Config.debruijn64 Config.bitScanTable := by decide +kernel

theorem witness_AnyPerfectMultiplierGivesTheSameResult :
    PerfectHash Config.debruijn64 ∧ InvertsHash Config.debruijn64 Config.bitScanTable ∧ (0x42 : Bitboard) ≠ 0 := by
  have h := witness_BitScanTableInvertsTheHash
  refine ⟨Finite.injective_iff_bijective.1 (fun a b e => ?_), h, by decide⟩
  apply Fin.ext
  rw [← h a, ← h b]
  simp [e]

theorem witness_ScanAndClearVisitsTheSetBits : (0x8000000000000081 : Bitboard) ≠ 0 := by decide

theorem witness_QueryFrame :
    (∃ t, exec (.popcnt 0) State.reset = .next t) ∧ ∃ t, exec (.bsf 1) readyState = .next t := ⟨⟨_, rfl⟩, ⟨_, rfl⟩⟩

theorem witness_DecodeAndEncodeAgree :
    decode wPopcnt = .ok (.popcnt 0xFF) ∧ Instr.popcnt 0xFF ≠ .init ∧ decode wInit = .ok .init := by decide

theorem witness_DecodeFollowsTheOperationMap :
    wInit &&& opMask = initMatch ∧ wPopcnt &&& opMask = popcntMatch ∧
    encode (.bsf 0xFFFFFFFFFFFFFFFF) &&& opMask = bsfMatch ∧ wReserved &&& opMask = reservedMatch := by decide

theorem witness_ReservedCodeAnswersIllegalOp :
    (withInputs readyState [.command 2 wReserved]).inputs = .command 2 wReserved :: [] ∧
    wReserved &&& opMask = reservedMatch := ⟨rfl, by decide⟩

theorem witness_StepRunsTheDecodedCommand :
    (withInputs State.reset [.command 0 wPopcnt]).inputs = .command 0 wPopcnt :: [] ∧
    decode wPopcnt = .ok (.popcnt 0xFF) ∧
    (∃ t r, exec (.popcnt 0xFF) { State.reset with inputs := [] } = .next t ∧ t.response = some r) ∧
    ∃ f, exec (.popcnt 0xFF) { emptyReadyState with inputs := [] } = .fault f :=
  ⟨rfl, by decide, ⟨_, _, rfl, rfl⟩, ⟨.unspecifiedEntryRead 0xFF, by rfl⟩⟩

theorem witness_PlacedWordRunsNext :
    decodeTableWord 66 0x20000000000000042 = some (.bsf 0x42) ∧ decodeTableWord 72 0 = some .init := by decide

theorem witness_IdleStepChangesNothing : readyState.inputs = [] := rfl

theorem witness_FaultChangesNothingButTheResponse :
    (∃ t r, exec (.bsf 0) readyState = .next t ∧ t.response = some r ∧ r.status ≠ .ok) ∧
    ∃ t r, exec (.popcnt 1) State.reset = .next t ∧ t.response = some r ∧ r.status ≠ .ok :=
  ⟨⟨_, _, rfl, rfl, by decide⟩, ⟨_, _, rfl, rfl, by decide⟩⟩

theorem witness_FaultsArePrecise :
    (withInputs readyState [.command 2 wReserved]).response = none ∧
    ∃ t, step (withInputs readyState [.command 2 wReserved]) = .next t ∧
      t.delivered = readyState.delivered ++ [⟨2, ⟨.illegalOp, 0xFFFFFFFF⟩⟩] ∧ Status.illegalOp ≠ .ok :=
  ⟨rfl, _, rfl, rfl, by decide⟩

theorem witness_EveryStepCompletes : readyState.Inv ∧ State.reset.Inv := ⟨readyState_inv, reset_inv⟩

theorem witness_OneResponsePerCommand :
    ((withInputs readyState [.command 1 wPopcnt]).Inv ∧
      (withInputs readyState [.command 1 wPopcnt]).inputs = .command 1 wPopcnt :: []) ∧
    (∀ q w rest, (withInputs readyState [.reset]).inputs ≠ .command q w :: rest) ∧
    ∃ t, step (withInputs readyState [.reset]) = .next t :=
  ⟨⟨readyState_inv, rfl⟩, (fun _ _ _ h => by cases h), _, rfl⟩

theorem witness_EveryResultIsInItsRange :
    readyState.TableSound ∧ (∃ t r, exec (.bsf 1) readyState = .next t ∧ t.response = some r ∧ r.status = .ok) ∧
    (∃ t r, exec (.bsf 0) readyState = .next t ∧ t.response = some r ∧ r.status ≠ .ok) ∧
    ∃ t, rejectWord (.reservedOp 0) readyState = .next t :=
  ⟨readyState_inv.1, ⟨_, _, rfl, rfl, rfl⟩, ⟨_, _, rfl, rfl, by decide⟩, ⟨_, rfl⟩⟩

theorem witness_EveryCommandFollowsTheOutcomeTable :
    (withInputs readyState [.command 0 wInit]).Inv ∧ wInit.extractLsb' 64 2 = 0 ∧ readyState.ready = true ∧
    (withInputs State.reset [.command 0 wReserved]).Inv ∧ wReserved.extractLsb' 64 2 ≠ 0 :=
  ⟨readyState_inv, by decide, rfl, reset_inv, by decide⟩

theorem witness_EveryRunRefinesTheReference :
    (withInputs readyState [.command 0 wReserved, .reset, .command 1 wInit, .abandoned 0 wInit]).Inv := readyState_inv

/-- The premise: a run with resets and with a POPCNT in its middle. The first clause: an INIT right before, and none in the run
where READY was 1. The second: nothing before, and INIT then RESET before. -/
theorem witness_PopcntAnswersByWhetherInitCameFirst :
    (withInputs readyState [.command 0 wInit, .reset, .command 1 (encode (.popcnt 5)), .command 0 wInit]).Inv ∧
    InitSinceReset false [.reset, .command 0 wInit] ∧ InitSinceReset true [] ∧
    ¬ InitSinceReset false [] ∧ ¬ InitSinceReset true [.command 0 wInit, .reset] := by
  refine ⟨readyState_inv, .inr ⟨[.reset], [], 0, wInit, rfl, by decide, by simp⟩, .inl ⟨rfl, by simp⟩, ?_, ?_⟩
  · rintro (⟨h, _⟩ | ⟨earlier, later, r, w, h, _⟩)
    · cases h
    · simp at h
  · rintro (⟨_, h⟩ | ⟨earlier, later, r, w, h, _, hl⟩)
    · exact absurd (h .reset (by simp)) (by decide)
    · match earlier, h with
      | [], h => simp only [List.nil_append, List.cons.injEq] at h; exact absurd (hl .reset (by simp [← h.2])) (by decide)
      | [_], h => simp at h
      | _ :: _ :: _, h => simp at h

theorem witness_ARequesterSeesOnlyItsOwnCommands :
    (withInputs readyState [.command 0 wPopcnt, .command 1 wReserved]).Inv ∧
    (withInputs readyState [.command 1 wInit, .command 0 wPopcnt]).Inv ∧ readyState.ready = true ∧
    (∀ i ∈ [Input.command 0 wPopcnt, .command 1 wReserved], i.isCommand = true) ∧
    (∀ i ∈ [Input.command 1 wInit, .command 0 wPopcnt], i.isCommand = true) ∧
    commandsOf 0 [.command 0 wPopcnt, .command 1 wReserved] = commandsOf 0 [.command 1 wInit, .command 0 wPopcnt] ∧
    responsesTo 0 readyState.delivered = responsesTo 0 readyState.delivered :=
  ⟨readyState_inv, readyState_inv, rfl, by decide, by decide, by decide, rfl⟩

theorem witness_PopcntRightAfterInitIsExact :
    decode wInit = .ok .init ∧
    (withInputs emptyReadyState [.command 0 wInit, .command 1 (encode (.popcnt 0))]).inputs =
      .command 0 wInit :: .command 1 (encode (.popcnt 0)) :: [] := ⟨by decide, rfl⟩

end Sys2Proof.Tests
end

section
/-! PROOFS for the family 10_state.md: what INIT, POPCNT, BSF and the rejected word do while READY = 0, the hash constants, and
the statements O10 and O1 assembled from them. -/

namespace Sys2Proof.Machine

/-! ### INIT's table does not depend on the table before it (R82) -/

/-- Each turn of INIT's loop reads only an index an earlier turn wrote, so after the turns 0..n the entries up to n are the
same whatever the table held before. -/
theorem read_initUpTo_congr (t u : ByteCountTable) {n : Nat} (hn : n < 256) (i : TableIndex) (hi : i.toNat ≤ n) :
    (initUpTo t n).read i = (initUpTo u n).read i := by
  induction n generalizing i with
  | zero =>
    obtain rfl : i = 0 := BitVec.eq_of_toNat_eq (Nat.le_zero.1 hi)
    simp [initUpTo]
  | succ k ih =>
    have hk : (BitVec.ofNat 8 (k + 1)).toNat = k + 1 := Nat.mod_eq_of_lt hn
    have hhalf : (halfIndex (BitVec.ofNat 8 (k + 1))).toNat ≤ k := by
      rw [halfIndex, BitVec.toNat_ushiftRight, hk, Nat.shiftRight_eq_div_pow]; omega
    simp only [initUpTo, initEntry, ByteCountTable.read_write]
    split
    · rw [ih (by omega) _ hhalf]
    · next hne =>
      have hik : i.toNat ≠ k + 1 := fun e => hne (BitVec.eq_of_toNat_eq (hk.trans e.symm))
      exact ih (by omega) i (by omega)

theorem builtTable_congr (t u : ByteCountTable) : builtTable t = builtTable u := by
  rw [builtTable_eq, builtTable_eq]
  exact ByteCountTable.eq_of_reads fun i => read_initUpTo_congr t u (by decide) i (Nat.le_of_lt_succ i.isLt)

/-! ### One equation per operation -/

/-- INIT discards the table it finds. -/
theorem execInit_congr_bct (s : State) (b : ByteCountTable) : execInit { s with bct := b } = execInit s := by
  rw [execInit_eq, execInit_eq, builtTable_congr b s.bct]

theorem execPopcnt_of_not_ready {s : State} (bb : Bitboard) (h : s.ready = false) :
    execPopcnt bb s = .next (s.raise .uninitializedTableAccess) := by
  simp [execPopcnt, h]

theorem execBsf_zero (s : State) : execBsf 0 s = .next (s.raise .preconditionViolation) := rfl

theorem execBsf_of_ne_zero {bb : Bitboard} (s : State) (h : bb ≠ 0) :
    execBsf bb s = .next (s.respond ((scanWith Config.debruijn64 Config.bitScanTable bb).setWidth 32)) :=
  if_neg h

/-- BSF writes the response port only, and its response is fixed by the operand before any state is seen (R101). -/
theorem execBsf_response_fixed (bb : Bitboard) :
    ∃ r : Response, ∀ s : State, execBsf bb s = .next { s with response := some r } := by
  by_cases h : bb = 0
  · subst h
    exact ⟨faultResponse .preconditionViolation, execBsf_zero⟩
  · exact ⟨_, fun s => execBsf_of_ne_zero s h⟩

theorem rejectWord_eq (j : DecodeReject) (s : State) : rejectWord j s = .next (s.raise .illegalOp) := by
  cases j; rfl

/-! ### The constants of BSF (R7, R107) -/

/-- A multiplier that has an inverse table satisfies PH: the table is a left inverse of h, and 0..63 is finite. -/
theorem perfectHash_of_invertsHash {multiplier : Bitboard} {table : Vector BitIndex 64}
    (h : InvertsHash multiplier table) : PerfectHash multiplier := by
  refine Finite.injective_iff_bijective.1 fun a b hab => Fin.ext ?_
  calc a.val = (table[(positionHash multiplier a).val]).toNat := (h a).symm
    _ = (table[(positionHash multiplier b).val]).toNat := by simp only [hab]
    _ = b.val := h b

theorem bitScanTable_invertsHash : InvertsHash Config.debruijn64 Config.bitScanTable := by decide

/-! ### The statements of the family -/

/-- Settles O10: INIT's loop overwrites every entry before it reads it, POPCNT faults before it reads one, and BSF and the
rejected word read none. -/
theorem unspecifiedTableIsNeverRead : Obligations.UnspecifiedTableIsNeverRead := by
  intro s b hready
  refine ⟨execInit_congr_bct s b, fun bb => ?popcnt, fun bb => ?bsf, fun j => ?rejected⟩
  case popcnt => exact ⟨_, execPopcnt_of_not_ready bb hready, execPopcnt_of_not_ready bb hready⟩
  case bsf =>
    obtain ⟨r, hr⟩ := execBsf_response_fixed bb
    exact ⟨r, hr s, hr _⟩
  case rejected => exact ⟨_, rejectWord_eq j s, rejectWord_eq j _⟩

/-- Settles O1: the reset state's fields, PH from the inverse table, and one equation per first command. -/
theorem resetValuesAndFirstCommand : Obligations.ResetValuesAndFirstCommand := by
  refine ⟨rfl, ByteCountTable.read_unspecified, rfl, perfectHash_of_invertsHash bitScanTable_invertsHash,
    bitScanTable_invertsHash, ⟨_, execInit_eq _, rfl⟩, fun bb hbb => ?bsf, fun bb => ?popcnt⟩
  case bsf => exact ⟨_, _, execBsf_of_ne_zero _ hbb, rfl⟩
  case popcnt => exact ⟨_, execPopcnt_of_not_ready bb rfl, rfl⟩

end Sys2Proof.Machine
end

section
/-! PROOFS for the family 30_encoding.md: the decoder by the operation code, the step of a rejected word, the values POPCNT and
BSF answer, and the statements O34, O36 and O46 assembled from them. -/

namespace Sys2Proof

/-! ### The decoder, by the operation code (R60, R62, R66) -/

/-- Packing the fields of a word gives the word back (R60). -/
theorem packCommand_splitWord (w : CommandWord) : packCommand (splitWord w) = w := by
  have h : w.extractLsb' 64 2 ++ w.extractLsb' 0 64 = w.extractLsb' 0 (2 + 64) :=
    BitVec.extractLsb'_append_extractLsb'_eq_extractLsb' rfl
  exact h.trans BitVec.extractLsb'_eq_self

/-- The mask of the operation map keeps the operation code and clears the operand (R66). -/
theorem and_opMask (w : CommandWord) : w &&& opMask = packCommand { op := (splitWord w).op, bb := 0 } := by
  have hmask : opMask = BitVec.allOnes 2 ++ 0#64 := by decide
  calc w &&& opMask
      = packCommand (splitWord w) &&& (BitVec.allOnes 2 ++ 0#64) := by rw [packCommand_splitWord, hmask]
    _ = ((splitWord w).op &&& BitVec.allOnes 2) ++ ((splitWord w).bb &&& 0#64) := BitVec.and_append
    _ = packCommand { op := (splitWord w).op, bb := 0 } := by
      rw [BitVec.and_allOnes, BitVec.and_zero]; rfl

/-- A word meets the row of the operation map that a code makes exactly when its own code is that one. -/
theorem and_opMask_eq_iff (w : CommandWord) (c : OpCode) :
    w &&& opMask = packCommand { op := c, bb := 0 } ↔ (splitWord w).op = c := by
  rw [and_opMask]
  refine ⟨fun h => ?_, fun h => by rw [h]⟩
  simpa only [splitWord_packCommand] using congrArg (fun v => (splitWord v).op) h

theorem and_opMask_eq_initMatch (w : CommandWord) : w &&& opMask = initMatch ↔ (splitWord w).op = 0 :=
  and_opMask_eq_iff w 0

theorem and_opMask_eq_popcntMatch (w : CommandWord) : w &&& opMask = popcntMatch ↔ (splitWord w).op = 1 :=
  and_opMask_eq_iff w 1

theorem and_opMask_eq_bsfMatch (w : CommandWord) : w &&& opMask = bsfMatch ↔ (splitWord w).op = 2 :=
  and_opMask_eq_iff w 2

theorem and_opMask_eq_reservedMatch (w : CommandWord) : w &&& opMask = reservedMatch ↔ (splitWord w).op = 3 :=
  and_opMask_eq_iff w 3

/-- The four values of the operation field (R62). -/
theorem opCode_cases (c : OpCode) : c = 0 ∨ c = 1 ∨ c = 2 ∨ c = 3 := by
  revert c; decide

theorem decode_of_op_zero {w : CommandWord} (h : (splitWord w).op = 0) : decode w = .ok .init := by
  simp [decode, decodeCommand, h]

theorem decode_of_op_one {w : CommandWord} (h : (splitWord w).op = 1) : decode w = .ok (.popcnt (splitWord w).bb) := by
  simp [decode, decodeCommand, h]

theorem decode_of_op_two {w : CommandWord} (h : (splitWord w).op = 2) : decode w = .ok (.bsf (splitWord w).bb) := by
  simp [decode, decodeCommand, h]

theorem decode_of_op_three {w : CommandWord} (h : (splitWord w).op = 3) :
    decode w = .error (.reservedOp (splitWord w).bb) := by
  simp [decode, decodeCommand, h]

end Sys2Proof

namespace Sys2Proof.Machine

/-- Settles O34: the mask keeps the operation code alone, each row is one of its four values, and the decoder selects by it. -/
theorem decodeFollowsTheOperationMap : Obligations.DecodeFollowsTheOperationMap := by
  intro w
  rw [and_opMask_eq_initMatch, and_opMask_eq_popcntMatch, and_opMask_eq_bsfMatch, and_opMask_eq_reservedMatch]
  exact ⟨opCode_cases _, decode_of_op_zero, decode_of_op_one, decode_of_op_two, decode_of_op_three⟩

/-- A command word the decoder rejects takes one step: its input is taken, and IllegalOp is delivered to its requester. -/
theorem step_of_decode_error {s : State} {q : Nat} {w : CommandWord} {rest : List Input} {j : DecodeReject}
    (hin : s.inputs = .command q w :: rest) (hdec : decode w = .error j) :
    step s = .next { s with
      inputs := rest, response := none,
      delivered := s.delivered ++ [⟨q, faultResponse .illegalOp⟩] } := by
  have hdeliver := State.deliver_of_some q (State.raise_response (s.takeInput rest) .illegalOp)
  simp only [step, hin, hdec, rejectWord_eq, deliverOutcome_next, hdeliver]
  rfl

/-- Settles O36: the reserved row is the code 3, which the decoder rejects, and a rejected word takes the step of R123. -/
theorem reservedCodeAnswersIllegalOp : Obligations.ReservedCodeAnswersIllegalOp := by
  intro s q w rest hin hmatch
  exact step_of_decode_error hin (decode_of_op_three ((and_opMask_eq_reservedMatch w).1 hmatch))

/-! ### The bit count of a word (R12) -/

theorem popcountRef_le {n : Nat} (v : BitVec n) : popcountRef v ≤ n := by
  simpa [popcountRef] using List.countP_le_length (p := fun i => v.getLsbD i) (l := List.range n)

/-- The bits of byte j of an operand, counted in place. -/
theorem popcountRef_byteOf (bb : Bitboard) (j : Nat) :
    popcountRef (byteOf bb j) = (List.range 8).countP (fun i => bb.getLsbD (8 * j + i)) := by
  refine List.countP_congr fun i hi => ?_
  simp [byteOf, List.mem_range.1 hi]

/-- The one-bits below bit 8n are those of the first n bytes. -/
theorem countP_range_bytes (bb : Bitboard) (n : Nat) :
    (List.range (8 * n)).countP (fun i => bb.getLsbD i) =
      ((List.range n).map (fun j => popcountRef (byteOf bb j))).sum := by
  induction n with
  | zero => rfl
  | succ k ih =>
    rw [Nat.mul_succ, List.range_add, List.countP_append, ih, List.countP_map, List.range_succ (n := k),
      List.map_append, List.sum_append, List.map_singleton, List.sum_singleton, popcountRef_byteOf]
    rfl

theorem popcountRef_eq_sum_bytes (bb : Bitboard) :
    popcountRef bb = (byteNumbers.map (fun j => popcountRef (byteOf bb j))).sum :=
  countP_range_bytes bb 8

/-! ### POPCNT (R91, R93) -/

/-- Where every listed byte selects an entry with a value, the running sum adds those values (R91). -/
theorem sumBytes_of_reads {t : ByteCountTable} {bb : Bitboard} {c : Nat → Count} (js : List Nat) (sum : Sum)
    (h : ∀ j ∈ js, t.read (byteOf bb j) = some (c j)) :
    sumBytes t bb js sum = .ok (sum + BitVec.ofNat 7 (js.map (fun j => (c j).toNat)).sum) := by
  induction js generalizing sum with
  | nil => simp [sumBytes]
  | cons j js ih =>
    have hj := h j (by simp)
    simp only [sumBytes, hj]
    rw [ih _ fun k hk => h k (by simp [hk])]
    simp [BitVec.ofNat_add, BitVec.add_assoc]

theorem sumBytes_of_counted {t : ByteCountTable} (bb : Bitboard) (h : Counted t) :
    sumBytes t bb byteNumbers 0 = .ok (BitVec.ofNat 7 (popcountRef bb)) := by
  have hentry (j : Nat) : (BitVec.ofNat 4 (popcountRef (byteOf bb j))).toNat = popcountRef (byteOf bb j) := by
    have := popcountRef_le (byteOf bb j)
    rw [BitVec.toNat_ofNat, Nat.mod_eq_of_lt (by omega)]
  rw [sumBytes_of_reads byteNumbers 0 fun j _ => h (byteOf bb j)]
  simp only [hentry, ← popcountRef_eq_sum_bytes, zero_add]

/-- With READY = 1 over a sound table, POPCNT answers the bit count; the 7-bit sum holds every count up to 64 (R93, R94). -/
theorem execPopcnt_of_tableSound {s : State} (bb : Bitboard) (hs : s.TableSound) (hready : s.ready = true) :
    execPopcnt bb s = .next (s.respond (BitVec.ofNat 32 (popcountRef bb))) := by
  have hle := popcountRef_le bb
  have hwidth : (BitVec.ofNat 7 (popcountRef bb)).setWidth 32 = BitVec.ofNat 32 (popcountRef bb) :=
    BitVec.setWidth_ofNat_of_le_of_lt (by decide) (by omega)
  simp only [execPopcnt, hready, if_true, sumBytes_of_counted bb (hs hready), hwidth]

/-! ### BSF (R103, R106, R109) -/

theorem ctz64_eq_some_iff {bb : Bitboard} {k : Nat} :
    ctz64 bb = some k ↔ k < 64 ∧ bb.getLsbD k = true ∧ ∀ j < k, bb.getLsbD j = false := by
  simp only [ctz64, List.find?_range_eq_some, List.mem_range, Bool.not_eq_true']
  exact and_left_comm

theorem exists_ctz64_of_ne_zero {bb : Bitboard} (h : bb ≠ 0) : ∃ k : Fin 64, ctz64 bb = some k.val := by
  cases hfind : ctz64 bb with
  | some k => exact ⟨⟨k, (ctz64_eq_some_iff.1 hfind).1⟩, rfl⟩
  | none =>
    refine absurd (BitVec.eq_of_getLsbD_eq fun i hi => ?_) h
    simpa using List.find?_range_eq_none.1 hfind i hi

/-- A word whose lowest one-bit is bit k: the bits above, and bit k. -/
theorem toNat_of_ctz64 {bb : Bitboard} {k : Nat} (h : ctz64 bb = some k) :
    bb.toNat = 2 ^ (k + 1) * (bb.toNat / 2 ^ (k + 1)) + 2 ^ k := by
  obtain ⟨-, hk, hlow⟩ := ctz64_eq_some_iff.1 h
  have hmod : bb.toNat % 2 ^ (k + 1) = 2 ^ k := by
    refine Nat.eq_of_testBit_eq fun j => ?_
    rw [Nat.testBit_mod_two_pow, Nat.testBit_two_pow, BitVec.testBit_toNat]
    rcases Nat.lt_trichotomy j k with hj | rfl | hj
    · simp [hlow j hj, hj.ne']
    · simp [hk]
    · simp [hj.ne, Nat.not_lt.2 hj]
  calc bb.toNat = 2 ^ (k + 1) * (bb.toNat / 2 ^ (k + 1)) + bb.toNat % 2 ^ (k + 1) := (Nat.div_add_mod _ _).symm
    _ = _ := by rw [hmod]

/-- Subtracting 1 clears bit k and sets the bits below it, so the mask is one exactly up to bit k (R103). -/
theorem scanMask_toNat {bb : Bitboard} {k : Nat} (h : ctz64 bb = some k) :
    (scanMask bb).toNat = 2 ^ (k + 1) - 1 := by
  have hbb := toNat_of_ctz64 h
  generalize bb.toNat / 2 ^ (k + 1) = high at hbb
  have hpos : 0 < 2 ^ k := Nat.two_pow_pos k
  have hlt : 2 ^ k < 2 ^ (k + 1) := Nat.pow_lt_pow_succ (by decide)
  have hpred : (bb - 1).toNat = 2 ^ (k + 1) * high + (2 ^ k - 1) := by
    rw [BitVec.toNat_sub_of_le (BitVec.le_def.2 (by simp; omega))]
    simp; omega
  refine Nat.eq_of_testBit_eq fun j => ?_
  rw [scanMask, BitVec.toNat_xor, Nat.testBit_xor, hpred, hbb, Nat.testBit_two_pow_mul_add _ hlt,
    Nat.testBit_two_pow_mul_add _ (by omega), Nat.testBit_two_pow, Nat.testBit_two_pow_sub_one,
    Nat.testBit_two_pow_sub_one]
  split
  · next hj =>
    rcases Nat.lt_or_eq_of_le (Nat.le_of_lt_succ hj) with hlow | rfl
    · simp [hlow, hlow.ne', hj]
    · simp
  · next hj => simp [hj]

/-- The hash of BSF depends on the position of the lowest one-bit only (R106). -/
theorem topSix_scanProduct {bb : Bitboard} {k : Fin 64} (h : ctz64 bb = some k.val) (multiplier : Bitboard) :
    (topSix (scanProduct multiplier (scanMask bb))).toNat = (positionHash multiplier k).val := by
  rw [topSix, scanProduct, BitVec.extractLsb'_toNat, BitVec.toNat_mul, scanMask_toNat h]
  exact Nat.mod_eq_of_lt (positionHash multiplier k).isLt

/-- With a table that inverts the hash, the data path of BSF finds the lowest one-bit, whatever the multiplier (R109). -/
theorem scanWith_of_ctz64 {multiplier : Bitboard} {table : Vector BitIndex 64} (hinv : InvertsHash multiplier table)
    {bb : Bitboard} {k : Fin 64} (h : ctz64 bb = some k.val) : (scanWith multiplier table bb).toNat = k.val := by
  rw [← hinv k]
  simp only [scanWith, topSix_scanProduct h]

theorem execBsf_of_ctz64 {bb : Bitboard} {k : Fin 64} (h : ctz64 bb = some k.val) (s : State) :
    execBsf bb s = .next (s.respond (BitVec.ofNat 32 k.val)) := by
  have hne : bb ≠ 0 := by
    rintro rfl
    exact absurd (ctz64_eq_some_iff.1 h).2.1 (by simp)
  rw [execBsf_of_ne_zero s hne, ← scanWith_of_ctz64 bitScanTable_invertsHash h, BitVec.ofNat_toNat]

/-! ### Responses in their ranges (R65) -/

theorem faultStatus_ne_ok (f : CommandFault) : faultStatus f ≠ .ok := by
  cases f <;> decide

theorem faultResponse_wellFormed (f : CommandFault) : (faultResponse f).wellFormed = true := by
  cases f <;> decide

theorem toNat_ofNat_of_le_64 {n : Nat} (h : n ≤ 64) : (BitVec.ofNat 32 n).toNat = n := by
  rw [BitVec.toNat_ofNat, Nat.mod_eq_of_lt (by omega)]

theorem okResponse_wellFormed {n : Nat} (h : n ≤ 64) :
    ({ status := .ok, result := BitVec.ofNat 32 n } : Response).wellFormed = true := by
  have hle : BitVec.ofNat 32 n ≤ 64 := BitVec.le_def.2 (by rw [toNat_ofNat_of_le_64 h]; exact h)
  exact decide_eq_true hle

/-- The range of an operation's result on OK (R65, R93, R100). -/
def OkResult (i : Instr) (v : ResultWord) : Prop :=
  match i with
  | .init => v = 0
  | .popcnt bb => v = BitVec.ofNat 32 (popcountRef bb) ∧ v.toNat ≤ 64
  | .bsf bb => ctz64 bb = some v.toNat ∧ v.toNat ≤ 63

/-- An operation that completes over a sound table raised a fault, or answered a value of its range. -/
theorem exec_response_cases {s t : State} {i : Instr} (hs : s.TableSound) (h : exec i s = .next t) :
    (∃ f, t.response = some (faultResponse f)) ∨
    ∃ n, n ≤ 64 ∧ t.response = some ⟨.ok, BitVec.ofNat 32 n⟩ ∧ OkResult i (BitVec.ofNat 32 n) := by
  cases i with
  | init =>
    obtain rfl := execInit_next h
    exact .inr ⟨0, by omega, rfl, rfl⟩
  | popcnt bb =>
    have hle := popcountRef_le bb
    cases hready : s.ready with
    | false =>
      obtain rfl := Host.Outcome.next.inj ((execPopcnt_of_not_ready bb hready).symm.trans h)
      exact .inl ⟨_, rfl⟩
    | true =>
      obtain rfl := Host.Outcome.next.inj ((execPopcnt_of_tableSound bb hs hready).symm.trans h)
      exact .inr ⟨_, hle, rfl, rfl, by rwa [toNat_ofNat_of_le_64 hle]⟩
  | bsf bb =>
    by_cases hzero : bb = 0
    · subst hzero
      obtain rfl := Host.Outcome.next.inj ((execBsf_zero s).symm.trans h)
      exact .inl ⟨_, rfl⟩
    · obtain ⟨k, hk⟩ := exists_ctz64_of_ne_zero hzero
      obtain rfl := Host.Outcome.next.inj ((execBsf_of_ctz64 hk s).symm.trans h)
      have hlt := k.isLt
      have hval := toNat_ofNat_of_le_64 hlt.le
      exact .inr ⟨k, hlt.le, rfl, by rwa [hval], by omega⟩

/-- Settles O46: a fault answers the sentinel, and OK answers a value of the operation's range. -/
theorem everyResultIsInItsRange : Obligations.EveryResultIsInItsRange := by
  refine ⟨fun s t i r hs hexec hresp => ?operation, fun s t j hrej => ?rejected⟩
  case operation =>
    rcases exec_response_cases hs hexec with ⟨f, hf⟩ | ⟨n, hn, hok, hrange⟩
    · obtain rfl : faultResponse f = r := Option.some.inj (hf.symm.trans hresp)
      exact ⟨faultResponse_wellFormed f, fun h => absurd h (faultStatus_ne_ok f), fun _ => rfl⟩
    · obtain rfl : (⟨.ok, BitVec.ofNat 32 n⟩ : Response) = r := Option.some.inj (hok.symm.trans hresp)
      exact ⟨okResponse_wellFormed hn, fun _ => hrange, fun h => absurd rfl h⟩
  case rejected => rw [rejectWord_next hrej]; rfl

end Sys2Proof.Machine
end

section
/-! PROOFS for the family 40_init.md: the bit count of half an index (R82, R84), the table INIT's loop builds from any table
(R83), and the statements O11 to O14 assembled from them. -/

namespace Sys2Proof.Machine

/-! ### The bit count of half an index (R82, R84) -/

/-- A logical shift right by one drops bit 0, so the bits of the half are the bits from bit 1 up. -/
theorem popcountRef_half {n : Nat} (v : BitVec (n + 1)) :
    popcountRef (v >>> 1) = (List.range n).countP (fun i => v.getLsbD (i + 1)) := by
  simp [popcountRef, List.range_succ, Nat.add_comm 1]

/-- The recurrence of R82 for the reference count, at every width: bit 0 is counted apart from the others. -/
theorem popcountRef_eq_half_add_bit {n : Nat} (v : BitVec (n + 1)) :
    popcountRef v = popcountRef (v >>> 1) + v.toNat % 2 := by
  have hbit : v.toNat % 2 = if v.getLsbD 0 then 1 else 0 := by
    rw [← BitVec.testBit_toNat, Nat.testBit_zero]
    rcases Nat.mod_two_eq_zero_or_one v.toNat with h | h <;> simp [h]
  rw [popcountRef_half, hbit, popcountRef, List.range_succ_eq_map, List.countP_cons, List.countP_map]
  rfl

/-- The half has one bit fewer, which bounds its count (R84). -/
theorem popcountRef_half_le {n : Nat} (v : BitVec (n + 1)) : popcountRef (v >>> 1) ≤ n := by
  rw [popcountRef_half]
  simpa using List.countP_le_length (p := fun i => v.getLsbD (i + 1)) (l := List.range n)

/-- `popcount_ref(i, 8)` at the width of an entry (R83). -/
def countEntry (i : TableIndex) : Count := BitVec.ofNat 4 (popcountRef i)

/-- An entry's 4 bits hold every count of 8 bits exactly (R84). -/
theorem countEntry_toNat (i : TableIndex) : (countEntry i).toNat = popcountRef i := by
  have hle := popcountRef_le i
  rw [countEntry, BitVec.toNat_ofNat, Nat.mod_eq_of_lt (by omega)]

theorem lowBit_toNat (i : TableIndex) : (lowBit i).toNat = i.toNat % 2 := by
  simp only [lowBit, BitVec.toNat_setWidth, BitVec.extractLsb'_toNat, Nat.shiftRight_zero]
  omega

theorem lowBit_eq_and_one (i : TableIndex) : lowBit i = (i &&& 1).setWidth 4 := by
  apply BitVec.eq_of_toNat_eq
  have hand : (i &&& 1).toNat = i.toNat % 2 := Nat.and_one_is_mod i.toNat
  rw [lowBit_toNat, BitVec.toNat_setWidth, hand]
  omega

/-- The entry the recurrence computes is the count of the index it is written at (R82). -/
theorem countEntry_halfIndex_add_lowBit (i : TableIndex) :
    countEntry (halfIndex i) + lowBit i = countEntry i := by
  apply BitVec.eq_of_toNat_eq
  have hle := popcountRef_le i
  have hrec : popcountRef i = popcountRef (halfIndex i) + i.toNat % 2 := popcountRef_eq_half_add_bit i
  rw [BitVec.toNat_add, countEntry_toNat, countEntry_toNat, lowBit_toNat, ← hrec, Nat.mod_eq_of_lt (by omega)]

/-! ### The table INIT builds (R81, R83) -/

/-- The table of R83's closed form, entry by entry. -/
def countTable : ByteCountTable := { entries := Vector.ofFn fun i => some (countEntry (BitVec.ofNat 8 i.val)) }

theorem countTable_counted : Counted countTable := by
  intro i
  simp [ByteCountTable.read, countTable, countEntry]

/-- Each turn of INIT's loop writes into a counted table the value its entry already has (R85). -/
theorem initUpTo_of_counted {t : ByteCountTable} (h : Counted t) (n : Nat) : initUpTo t n = t := by
  induction n with
  | zero => exact ByteCountTable.write_read (h 0)
  | succ k ih =>
    rw [initUpTo, ih, initEntry, h (halfIndex _)]
    refine ByteCountTable.write_read ((h _).trans ?_)
    exact congrArg some (countEntry_halfIndex_add_lowBit _).symm

theorem builtTable_of_counted {t : ByteCountTable} (h : Counted t) : builtTable t = t :=
  (builtTable_eq t).trans (initUpTo_of_counted h 255)

/-- INIT's table does not depend on the one it finds (`builtTable_congr`), and from a counted one it is that one: so it is
counted always (R83). -/
theorem builtTable_counted (t : ByteCountTable) : Counted (builtTable t) := by
  rw [builtTable_congr t countTable, builtTable_of_counted countTable_counted]
  exact countTable_counted

/-! ### What INIT and READY do (R83, R85) -/

theorem exec_init_counted {s t : State} (h : exec .init s = .next t) : Counted t.bct := by
  obtain rfl := execInit_next h
  exact builtTable_counted s.bct

theorem execInit_of_tableSound {s : State} (hs : s.TableSound) (hready : s.ready = true) :
    execInit s = .next { s with response := some ⟨.ok, 0⟩ } := by
  rw [execInit_eq, builtTable_of_counted (hs hready), ← hready]

/-- No operation clears READY (R23): INIT sets it, and the queries leave it as it is. -/
theorem exec_keeps_ready {s t : State} {i : Instr} (hready : s.ready = true) (h : exec i s = .next t) :
    t.ready = true := by
  cases i with
  | init => rw [execInit_next h]
  | popcnt bb => rcases execPopcnt_next h with ⟨-, v, -, rfl⟩ | ⟨-, rfl⟩ <;> exact hready
  | bsf bb => rcases execBsf_next h with ⟨-, rfl⟩ | ⟨-, rfl⟩ <;> exact hready

/-! ### The statements of the family -/

/-- Settles O11: INIT always completes, with the table its loop built, and that table is counted. -/
theorem initBuildsTheCountTable : Obligations.InitBuildsTheCountTable := fun s =>
  ⟨builtTable s.bct, builtTable_counted s.bct, execInit_eq s⟩

/-- Settles O12: the closed form meets the recurrence, and INIT discards the table it finds. -/
theorem initFollowsTheRecurrence : Obligations.InitFollowsTheRecurrence := by
  refine ⟨fun s t hexec => ?table, execInit_congr_bct⟩
  have hcount := exec_init_counted hexec
  refine ⟨hcount 0, fun i _ => ⟨countEntry (halfIndex i), hcount (halfIndex i), ?_⟩⟩
  rw [← lowBit_eq_and_one, countEntry_halfIndex_add_lowBit]
  exact hcount i

/-- Settles O13: an entry is the count of 8 bits, the entry read is the count of 7, and the counts meet the recurrence as
integers. -/
theorem initNeverOverflowsAnEntry : Obligations.InitNeverOverflowsAnEntry := by
  intro s t hexec
  have hcount := exec_init_counted hexec
  refine ⟨hcount 255, fun i => ⟨countEntry i, hcount i, ?bound⟩,
    fun i _ => ⟨countEntry (halfIndex i), countEntry i, hcount (halfIndex i), ?half, hcount i, ?exact_sum⟩⟩
  case bound => rw [countEntry_toNat]; exact popcountRef_le i
  case half => rw [countEntry_toNat]; exact popcountRef_half_le i
  case exact_sum => rw [countEntry_toNat, countEntry_toNat]; exact popcountRef_eq_half_add_bit i

/-- Settles O14: INIT writes READY without reading it, rebuilds a counted table as it was, and no operation clears READY. -/
theorem repeatedInitIsIdempotent : Obligations.RepeatedInitIsIdempotent := by
  refine ⟨fun s b => rfl, fun s => execInit_of_tableSound, fun s t hexec => ?twice, fun s t i => exec_keeps_ready⟩
  have hcount := exec_init_counted hexec
  obtain rfl := execInit_next hexec
  exact execInit_of_tableSound (fun _ => hcount) rfl

end Sys2Proof.Machine
end

section
/-! PROOFS for the family 41_popcount.md: the words that reach the greatest bit count (R94), the sum of any eight entries
(R91, R92), and the statements O16, O17 and O20 assembled from them. -/

namespace Sys2Proof.Machine

/-! ### The greatest bit count (R94) -/

/-- A word of n bits counts n exactly when every one of its bits is 1. -/
theorem popcountRef_eq_width_iff {n : Nat} (v : BitVec n) : popcountRef v = n ↔ v = BitVec.allOnes n := by
  have hall : popcountRef v = n ↔ ∀ i < n, v.getLsbD i = true := by
    simpa [popcountRef] using List.countP_eq_length (p := fun i => v.getLsbD i) (l := List.range n)
  rw [hall]
  constructor
  · intro hbits
    refine BitVec.eq_of_getLsbD_eq fun i hi => ?_
    rw [hbits i hi, BitVec.getLsbD_allOnes, decide_eq_true hi]
  · rintro rfl i hi
    rw [BitVec.getLsbD_allOnes, decide_eq_true hi]

/-- A result of at most 64 lies in its seven low bits. -/
theorem extractLsb'_upper_of_le_64 {v : ResultWord} (h : v.toNat ≤ 64) : v.extractLsb' 7 25 = 0 := by
  apply BitVec.eq_of_toNat_eq
  rw [BitVec.extractLsb'_toNat, Nat.shiftRight_eq_div_pow, Nat.div_eq_of_lt (by omega)]
  rfl

/-! ### POPCNT over any eight entries (R91, R92) -/

/-- Eight entries of 4 bits add up to at most 120, which 7 bits hold (R92). -/
theorem sum_byteNumbers_lt (c : Nat → Count) : (byteNumbers.map (fun j => (c j).toNat)).sum < 128 := by
  have hentry : ∀ x ∈ byteNumbers.map (fun j => (c j).toNat), x ≤ 15 :=
    List.forall_mem_map.2 fun j _ => Nat.le_of_lt_succ (c j).isLt
  exact Nat.lt_of_le_of_lt (List.sum_le_card_nsmul _ 15 hentry) (by rw [List.length_map]; decide)

/-- With READY = 1, POPCNT answers the exact sum of the entries its bytes select, whatever they hold. -/
theorem execPopcnt_of_reads {s : State} {bb : Bitboard} {c : Nat → Count} (hready : s.ready = true)
    (h : ∀ j ∈ byteNumbers, s.bct.read (byteOf bb j) = some (c j)) :
    execPopcnt bb s = .next (s.respond (BitVec.ofNat 32 (byteNumbers.map (fun j => (c j).toNat)).sum)) := by
  have hwidth := BitVec.setWidth_ofNat_of_le_of_lt (show 7 ≤ 32 by decide) (sum_byteNumbers_lt c)
  simp only [execPopcnt, hready, if_true, sumBytes_of_reads byteNumbers 0 h, zero_add, hwidth]

/-! ### The statements of the family -/

/-- Settles O16: the bits partition into the eight bytes, whose counts a sound table holds (`execPopcnt_of_tableSound`). -/
theorem popcntReturnsTheBitCount : Obligations.PopcntReturnsTheBitCount := fun _ bb =>
  execPopcnt_of_tableSound bb

/-- Settles O17: the eight entries are those of the byte numbers, and their sum fits the 7-bit accumulator. -/
theorem popcntSumsEightEntries : Obligations.PopcntSumsEightEntries := by
  intro s bb c hready hreads
  have hbytes : byteNumbers = (List.finRange 8).map Fin.val := by decide
  have hentries : ∀ j ∈ byteNumbers, s.bct.read (byteOf bb j) = some (c (Fin.ofNat 8 j)) := by
    rw [hbytes, List.forall_mem_map]
    intro j _
    rw [Fin.ofNat_val_eq_self]
    exact hreads j
  exact execPopcnt_of_reads hready hentries

/-- Settles O20: each entry counts 8 bits and the result counts 64, all of them only for the all-ones operand. -/
theorem popcntResultRange : Obligations.PopcntResultRange := by
  intro s bb hsound hready
  have hle := popcountRef_le bb
  have hval := toNat_ofNat_of_le_64 hle
  refine ⟨fun j => ⟨countEntry (byteOf bb j), hsound hready _, ?entry⟩,
    BitVec.ofNat 32 (popcountRef bb), execPopcnt_of_tableSound bb hsound hready, ?bound, ?all_ones, ?upper⟩
  case entry => rw [countEntry_toNat]; exact popcountRef_le _
  case bound => rw [hval]; exact hle
  case all_ones => rw [hval]; exact popcountRef_eq_width_iff bb
  case upper => exact extractLsb'_upper_of_le_64 (by rw [hval]; exact hle)

end Sys2Proof.Machine
end

section
/-! PROOFS for the family 42_bitscan.md: the bits of the mask (R103), the hash as a shift and the table entry it selects (R106),
the positions of the one-bits under repeated clearing (R112), and the statements O23, O25, O26, O28 and O31 assembled from
them. -/

namespace Sys2Proof.Machine

/-! ### The mask and the hash (R103, R106) -/

theorem scanMask_getLsbD {bb : Bitboard} {k : Nat} (h : ctz64 bb = some k) (j : Nat) :
    (scanMask bb).getLsbD j = decide (j ≤ k) := by
  rw [← BitVec.testBit_toNat, scanMask_toNat h, Nat.testBit_two_pow_sub_one]
  exact decide_eq_decide.2 Nat.lt_succ_iff

/-- The top six bits of a word are the word shifted right by 58 (R106). -/
theorem topSix_eq_shift (product : Bitboard) : topSix product = (product >>> 58).setWidth 6 := by
  apply BitVec.eq_of_toNat_eq
  rw [topSix, BitVec.extractLsb'_toNat, BitVec.toNat_setWidth, BitVec.toNat_ushiftRight]

/-- The data path of BSF reads the table at h(k), for any multiplier and any table (R106). -/
theorem scanWith_eq_getElem {bb : Bitboard} {k : Fin 64} (h : ctz64 bb = some k.val) (multiplier : Bitboard)
    (table : Vector BitIndex 64) :
    scanWith multiplier table bb =
      table[(positionHash multiplier k).val]'(positionHash multiplier k).isLt := by
  simp only [scanWith, topSix_scanProduct h]

theorem ne_zero_of_ctz64 {bb : Bitboard} {k : Nat} (h : ctz64 bb = some k) : bb ≠ 0 := by
  rintro rfl
  exact absurd (ctz64_eq_some_iff.1 h).2.1 (by simp)

/-! ### Clearing the lowest one-bit (R112) -/

/-- The subtraction flips exactly the bits of the mask, so the conjunction loses bit k and keeps every other one-bit. -/
theorem clearLowest_getLsbD {bb : Bitboard} {k : Nat} (h : ctz64 bb = some k) (j : Nat) :
    (clearLowest bb).getLsbD j = (j != k && bb.getLsbD j) := by
  obtain ⟨-, hk, hlow⟩ := ctz64_eq_some_iff.1 h
  have hmask : (bb.getLsbD j ^^ (bb - 1).getLsbD j) = decide (j ≤ k) := by
    rw [← scanMask_getLsbD h, scanMask, BitVec.getLsbD_xor]
  rw [clearLowest, BitVec.getLsbD_and]
  rcases Nat.lt_trichotomy j k with hj | rfl | hj
  · simp [hlow j hj]
  · simpa [hk] using hmask
  · have hsame : bb.getLsbD j = (bb - 1).getLsbD j := by simpa [Nat.not_le.2 hj] using hmask
    rw [← hsame]; simp [hj.ne']

/-- The positions of the one-bits of a word, in ascending order (R112). -/
def oneBits (bb : Bitboard) : List Nat := (List.range 64).filter (fun i => bb.getLsbD i)

theorem mem_oneBits {bb : Bitboard} {p : Nat} : p ∈ oneBits bb ↔ bb.getLsbD p = true := by
  rw [oneBits, List.mem_filter, List.mem_range]
  exact and_iff_right_of_imp BitVec.lt_of_getLsbD

theorem length_oneBits (bb : Bitboard) : (oneBits bb).length = popcountRef bb :=
  List.countP_eq_length_filter.symm

theorem oneBits_ascending (bb : Bitboard) : (oneBits bb).Pairwise (· < ·) :=
  List.pairwise_lt_range.filter _

theorem head?_oneBits (bb : Bitboard) : (oneBits bb).head? = ctz64 bb :=
  List.head?_filter

/-- The index the t-th scan answers; past the last one-bit it has no meaning. -/
def scanIndex (bb : Bitboard) (t : Nat) : Nat := (oneBits bb).getD t 0

theorem scanIndex_eq_getElem {bb : Bitboard} {t : Nat} (ht : t < (oneBits bb).length) :
    scanIndex bb t = (oneBits bb)[t] :=
  List.getD_eq_getElem _ _ ht

theorem getElem?_oneBits_eq_some_iff {bb : Bitboard} {t p : Nat} :
    (oneBits bb)[t]? = some p ↔ t < popcountRef bb ∧ scanIndex bb t = p := by
  rw [List.getElem?_eq_some_iff, ← length_oneBits, ← exists_prop]
  exact exists_congr fun ht => by rw [scanIndex_eq_getElem ht]

/-- Clearing the lowest one-bit drops the first position and keeps the others. -/
theorem oneBits_clearLowest (bb : Bitboard) : oneBits (clearLowest bb) = (oneBits bb).tail := by
  by_cases hzero : bb = 0
  · subst hzero; rfl
  obtain ⟨k, hk⟩ := exists_ctz64_of_ne_zero hzero
  have hfilter : oneBits (clearLowest bb) = (oneBits bb).filter (· != k.val) := by
    rw [oneBits, oneBits, List.filter_filter]
    exact List.filter_congr fun j _ => clearLowest_getLsbD hk j
  obtain ⟨rest, hrest⟩ := List.head?_eq_some_iff.1 ((head?_oneBits bb).trans hk)
  have hnodup : (oneBits bb).Nodup := List.nodup_range.filter _
  rw [hfilter, ← hnodup.erase_eq_filter, hrest, List.erase_cons_head, List.tail_cons]

theorem oneBits_clearTimes (t : Nat) (bb : Bitboard) : oneBits (clearTimes t bb) = (oneBits bb).drop t := by
  induction t with
  | zero => rfl
  | succ t ih => rw [clearTimes, oneBits_clearLowest, ih, List.tail_drop]

/-- After t clearings the lowest one-bit is the operand's t-th one-bit, counted from 0 (R112). -/
theorem ctz64_clearTimes (t : Nat) (bb : Bitboard) : ctz64 (clearTimes t bb) = (oneBits bb)[t]? := by
  rw [← head?_oneBits, oneBits_clearTimes, List.head?_drop]

/-- As many clearings as there are one-bits leave zero. -/
theorem clearTimes_popcountRef (bb : Bitboard) : clearTimes (popcountRef bb) bb = 0 := by
  by_contra hne
  obtain ⟨k, hk⟩ := exists_ctz64_of_ne_zero hne
  rw [ctz64_clearTimes, List.getElem?_eq_none (length_oneBits bb).le] at hk
  cases hk

/-! ### The statements of the family -/

/-- Settles O23: a non-zero operand has a lowest one-bit, and the data path finds it in every state. -/
theorem bsfReturnsTheLowestSetBit : Obligations.BsfReturnsTheLowestSetBit := by
  intro s bb hne
  obtain ⟨k, hk⟩ := exists_ctz64_of_ne_zero hne
  obtain ⟨hlt, hbit, hlow⟩ := ctz64_eq_some_iff.1 hk
  exact ⟨k, hlt, hk, hbit, hlow, execBsf_of_ctz64 hk s⟩

/-- Settles O25: the mask has the value `scanMask_toNat` gives and the bits `scanMask_getLsbD` gives. -/
theorem scanMaskIsTheLowOnes : Obligations.ScanMaskIsTheLowOnes := fun _ _ hk =>
  ⟨scanMask_toNat hk, scanMask_getLsbD hk⟩

/-- Settles O26: the mask, and so the hash and the entry read, are fixed by the position of the lowest one-bit. -/
theorem scanHashDependsOnThePositionOnly : Obligations.ScanHashDependsOnThePositionOnly := by
  intro bb k hk
  refine ⟨fun multiplier => ⟨topSix_scanProduct hk multiplier, topSix_eq_shift _⟩, fun s => ?_⟩
  rw [← scanWith_eq_getElem hk]
  exact execBsf_of_ne_zero s (ne_zero_of_ctz64 hk)

/-- Settles O28: a table that inverts the hash of its own multiplier sends h(k) back to k, as the unit's table does. -/
theorem anyPerfectMultiplierGivesTheSameResult : Obligations.AnyPerfectMultiplierGivesTheSameResult := by
  intro multiplier table _ hinv s bb hne
  obtain ⟨k, hk⟩ := exists_ctz64_of_ne_zero hne
  have hscan := scanWith_of_ctz64 hinv hk
  refine ⟨by rw [hscan, hk], ?_⟩
  rw [← BitVec.ofNat_toNat, hscan]
  exact execBsf_of_ctz64 hk s

/-- Settles O31: the indices answered are the list of one-bit positions, one per clearing, and when the list is used up the
word is zero. -/
theorem scanAndClearVisitsTheSetBits : Obligations.ScanAndClearVisitsTheSetBits := by
  intro s bb _
  refine ⟨scanIndex bb, fun t ht => ?scan, fun t u htu hu => ?ascending, fun p => ?visited,
    clearTimes_popcountRef bb, ?zero_faults⟩
  case scan =>
    have hk := (ctz64_clearTimes t bb).trans (getElem?_oneBits_eq_some_iff.2 ⟨ht, rfl⟩)
    exact ⟨ne_zero_of_ctz64 hk, execBsf_of_ctz64 (k := ⟨_, (ctz64_eq_some_iff.1 hk).1⟩) hk s⟩
  case ascending =>
    rw [← length_oneBits] at hu
    rw [scanIndex_eq_getElem (htu.trans hu), scanIndex_eq_getElem hu]
    exact List.pairwise_iff_getElem.1 (oneBits_ascending bb) t u _ _ htu
  case visited => simp only [← mem_oneBits, List.mem_iff_getElem?, getElem?_oneBits_eq_some_iff]
  case zero_faults =>
    rw [clearTimes_popcountRef]
    exact execBsf_zero s

end Sys2Proof.Machine
end

section
/-! PROOFS for the family 60_exceptions.md: a decoded word as one operation, the causes of the three faults (R121 to R123), the
rows of the outcome table (R124), and the statements O47, O43, O18, O24 and O42 assembled from them. -/

namespace Sys2Proof.Machine

/-! ### A command, from its decoded word to its delivery -/

/-- What the unit does with a decoded word, an operation or a reject, before its response is delivered (R66, R67). -/
def execDecoded (d : Except DecodeReject Instr) (s : State) : Host.Outcome State Fault Refusal :=
  match d with
  | .ok i => exec i s
  | .error j => rejectWord j s

theorem step_of_command {s : State} {q : Nat} {w : CommandWord} {rest : List Input}
    (hin : s.inputs = .command q w :: rest) :
    step s = deliverOutcome q (execDecoded (decode w) (s.takeInput rest)) := by
  simp only [step, hin]
  cases decode w <;> rfl

/-- A command that leaves its response on the port takes one step: the response goes to its requester. -/
theorem step_of_response {s u : State} {q : Nat} {w : CommandWord} {rest : List Input} {r : Response}
    (hin : s.inputs = .command q w :: rest) (hexec : execDecoded (decode w) (s.takeInput rest) = .next u)
    (hresp : u.response = some r) :
    step s = .next { u with response := none, delivered := u.delivered ++ [⟨q, r⟩] } := by
  rw [step_of_command hin, hexec, deliverOutcome_next, State.deliver_of_some q hresp]

/-! ### The causes of the three faults (R120 to R123) -/

/-- The causes of R121 to R123, in READY and the decoded word: BCT plays no part. -/
inductive FaultCause (ready : Bool) : Except DecodeReject Instr → CommandFault → Prop where
  | bsfOfZero : FaultCause ready (.ok (.bsf 0)) .preconditionViolation
  | popcntBeforeInit (bb : Bitboard) (h : ready = false) : FaultCause ready (.ok (.popcnt bb)) .uninitializedTableAccess
  | reservedCode (j : DecodeReject) : FaultCause ready (.error j) .illegalOp

/-- Where a cause holds, the fault's response is all that is written. -/
theorem execDecoded_of_faultCause {s : State} {d : Except DecodeReject Instr} {f : CommandFault}
    (h : FaultCause s.ready d f) : execDecoded d s = .next (s.raise f) := by
  cases h with
  | bsfOfZero => exact execBsf_zero s
  | popcntBeforeInit bb hready => exact execPopcnt_of_not_ready bb hready
  | reservedCode j => exact rejectWord_eq j s

/-- A command that completes answers OK, or a cause holds and its fault was raised. -/
theorem execDecoded_next_cases {s t : State} {d : Except DecodeReject Instr} (h : execDecoded d s = .next t) :
    (∃ v, t.response = some ⟨.ok, v⟩) ∨ ∃ f, FaultCause s.ready d f ∧ t = s.raise f := by
  match d with
  | .error j => exact .inr ⟨_, .reservedCode j, rejectWord_next h⟩
  | .ok .init =>
    obtain rfl := execInit_next h
    exact .inl ⟨0, rfl⟩
  | .ok (.popcnt bb) =>
    rcases execPopcnt_next h with ⟨-, v, -, rfl⟩ | ⟨hready, rfl⟩
    · exact .inl ⟨_, rfl⟩
    · exact .inr ⟨_, .popcntBeforeInit bb hready, rfl⟩
  | .ok (.bsf bb) =>
    rcases execBsf_next h with ⟨-, rfl⟩ | ⟨rfl, rfl⟩
    · exact .inl ⟨_, rfl⟩
    · exact .inr ⟨_, .bsfOfZero, rfl⟩

/-- A response other than OK is a fault's, and its cause holds. -/
theorem faultCause_of_response {s t : State} {d : Except DecodeReject Instr} {r : Response}
    (h : execDecoded d s = .next t) (hresp : t.response = some r) (hstatus : r.status ≠ .ok) :
    ∃ f, FaultCause s.ready d f ∧ t = s.raise f ∧ r = faultResponse f := by
  rcases execDecoded_next_cases h with ⟨v, hok⟩ | ⟨f, hcause, rfl⟩
  · obtain rfl : ⟨.ok, v⟩ = r := Option.some.inj (hok.symm.trans hresp)
    exact absurd rfl hstatus
  · exact ⟨f, hcause, rfl, (Option.some.inj hresp).symm⟩

theorem faultStatus_injective : Function.Injective faultStatus
  | .preconditionViolation, .preconditionViolation, _ => rfl
  | .uninitializedTableAccess, .uninitializedTableAccess, _ => rfl
  | .illegalOp, .illegalOp, _ => rfl

/-- Each fault has a status of its own, so the status alone names the cause (R63). -/
theorem faultCause_of_status {s t : State} {d : Except DecodeReject Instr} (f : CommandFault) {v : ResultWord}
    (h : execDecoded d s = .next t) (hresp : t.response = some ⟨faultStatus f, v⟩) : FaultCause s.ready d f := by
  obtain ⟨g, hcause, -, hr⟩ := faultCause_of_response h hresp (faultStatus_ne_ok f)
  obtain rfl : f = g := faultStatus_injective (congrArg Response.status hr)
  exact hcause

/-- A step that takes a command and delivers a response to it left that response on the port. -/
theorem execDecoded_of_step {s t : State} {q : Nat} {w : CommandWord} {rest : List Input} {r : Response}
    (hin : s.inputs = .command q w :: rest) (hstep : step s = .next t)
    (hdel : t.delivered = s.delivered ++ [⟨q, r⟩]) :
    ∃ u, execDecoded (decode w) (s.takeInput rest) = .next u ∧ u.response = some r := by
  rw [step_of_command hin] at hstep
  obtain ⟨u, hexec, rfl⟩ := deliverOutcome_eq_next hstep
  obtain ⟨r', hresp⟩ : ∃ r', u.response = some r' := by
    rcases execDecoded_next_cases hexec with ⟨v, hok⟩ | ⟨f, -, rfl⟩
    · exact ⟨_, hok⟩
    · exact ⟨_, rfl⟩
  rw [State.deliver_delivered_of_some q hresp] at hdel
  obtain ⟨-, hlast⟩ := List.append_inj' hdel rfl
  obtain rfl : r' = r := by simpa using hlast
  exact ⟨u, hexec, hresp⟩

/-! ### The rows of the outcome table (R124) -/

section
variable {w : CommandWord}

theorem referenceAnswer_of_op_zero (ready : Bool) (h : (splitWord w).op = 0) : referenceAnswer ready w = ⟨.ok, 0⟩ := by
  have hop : w.extractLsb' 64 2 = 0 := h
  simp only [referenceAnswer, hop]
  rfl

theorem referenceAnswer_of_op_one_ready (h : (splitWord w).op = 1) :
    referenceAnswer true w = ⟨.ok, BitVec.ofNat 32 (popcountRef (splitWord w).bb)⟩ := by
  have hop : w.extractLsb' 64 2 = 1 := h
  simp only [referenceAnswer, hop]
  rfl

theorem referenceAnswer_of_op_one_not_ready (h : (splitWord w).op = 1) :
    referenceAnswer false w = faultResponse .uninitializedTableAccess := by
  have hop : w.extractLsb' 64 2 = 1 := h
  simp only [referenceAnswer, hop]
  rfl

theorem referenceAnswer_of_op_two (ready : Bool) {k : Nat} (h : (splitWord w).op = 2)
    (hk : ctz64 (splitWord w).bb = some k) : referenceAnswer ready w = ⟨.ok, BitVec.ofNat 32 k⟩ := by
  have hop : w.extractLsb' 64 2 = 2 := h
  have hctz : ctz64 (w.extractLsb' 0 64) = some k := hk
  simp only [referenceAnswer, hop, hctz]
  rfl

theorem referenceAnswer_of_op_two_zero (ready : Bool) (h : (splitWord w).op = 2) (hzero : (splitWord w).bb = 0) :
    referenceAnswer ready w = faultResponse .preconditionViolation := by
  have hop : w.extractLsb' 64 2 = 2 := h
  have hbb : w.extractLsb' 0 64 = 0 := hzero
  simp only [referenceAnswer, hop, hbb]
  rfl

theorem referenceAnswer_of_op_three (ready : Bool) (h : (splitWord w).op = 3) :
    referenceAnswer ready w = faultResponse .illegalOp := by
  have hop : w.extractLsb' 64 2 = 3 := h
  simp only [referenceAnswer, hop]
  rfl

/-- The first row: INIT in any state fills the table and sets READY (R83). -/
theorem execDecoded_of_op_zero (s : State) (h : (splitWord w).op = 0) :
    execDecoded (decode w) s = .next { s with
      bct := builtTable s.bct, ready := true, response := some (referenceAnswer s.ready w) } := by
  rw [decode_of_op_zero h, referenceAnswer_of_op_zero s.ready h]
  exact execInit_eq s

/-- The other rows: over a sound table, POPCNT, BSF and the reserved code answer as the table says and write nothing else. -/
theorem execDecoded_of_op_ne_zero {s : State} (hs : s.TableSound) (h : (splitWord w).op ≠ 0) :
    execDecoded (decode w) s = .next { s with response := some (referenceAnswer s.ready w) } := by
  rcases opCode_cases (splitWord w).op with h0 | h1 | h2 | h3
  · exact absurd h0 h
  · rw [decode_of_op_one h1]
    rcases Bool.eq_false_or_eq_true s.ready with hready | hready
    · rw [hready, referenceAnswer_of_op_one_ready h1, ← hready]
      exact execPopcnt_of_tableSound _ hs hready
    · rw [hready, referenceAnswer_of_op_one_not_ready h1, ← hready]
      exact execPopcnt_of_not_ready _ hready
  · rw [decode_of_op_two h2]
    by_cases hzero : (splitWord w).bb = 0
    · rw [referenceAnswer_of_op_two_zero s.ready h2 hzero, hzero]
      exact execBsf_zero s
    · obtain ⟨k, hk⟩ := exists_ctz64_of_ne_zero hzero
      rw [referenceAnswer_of_op_two s.ready h2 hk]
      exact execBsf_of_ctz64 hk s
  · rw [decode_of_op_three h3, referenceAnswer_of_op_three s.ready h3]
    exact rejectWord_eq _ s

end

/-! ### The statements of the family -/

/-- Settles O47: the operation code selects the row, INIT's with the table its loop built and every other with the state as it
was. -/
theorem everyCommandFollowsTheOutcomeTable : Obligations.EveryCommandFollowsTheOutcomeTable := by
  intro s q w rest ⟨hsound, _⟩ hin
  by_cases hop : (splitWord w).op = 0
  · refine ⟨_, step_of_response hin (execDecoded_of_op_zero _ hop) rfl, rfl, rfl, rfl,
      fun _ => ?init, fun h => absurd hop h⟩
    exact ⟨rfl, builtTable_counted s.bct, fun hready => builtTable_of_counted (hsound hready)⟩
  · exact ⟨_, step_of_response hin (execDecoded_of_op_ne_zero hsound hop) rfl, rfl, rfl, rfl,
      fun h => absurd h hop, fun _ => ⟨rfl, rfl⟩⟩

/-- Settles O43: the response names a fault whose cause holds, raising it writes the port only, and the cause, which reads
READY and the word alone, holds again after the delivery. -/
theorem faultsArePrecise : Obligations.FaultsArePrecise := by
  intro s t q w rest r hport hin hstep hdel hstatus
  obtain ⟨u, hexec, hresp⟩ := execDecoded_of_step hin hstep hdel
  obtain ⟨f, hcause, rfl, rfl⟩ := faultCause_of_response hexec hresp hstatus
  obtain rfl := Host.Outcome.next.inj (hstep.symm.trans (step_of_response hin hexec hresp))
  exact ⟨State.ext_fields rfl rfl hport.symm rfl rfl, _,
    step_of_response rfl (execDecoded_of_faultCause (by exact hcause)) rfl, rfl⟩

/-- Settles O18: READY = 0 at a POPCNT is the cause, and the status names no other. -/
theorem popcntBeforeInitFaults : Obligations.PopcntBeforeInitFaults := by
  refine ⟨fun s bb => execPopcnt_of_not_ready bb, fun s t i v hexec hresp => ?operation,
    fun s t j v hrej hresp => ?rejected⟩
  case operation =>
    cases faultCause_of_status (d := .ok i) .uninitializedTableAccess hexec hresp with
    | popcntBeforeInit bb hready => exact ⟨hready, bb, rfl⟩
  case rejected => cases faultCause_of_status (d := .error j) .uninitializedTableAccess hrej hresp

/-- Settles O24: the zero operand of a BSF is the cause, and the status names no other. -/
theorem bsfOfZeroFaults : Obligations.BsfOfZeroFaults := by
  refine ⟨execBsf_zero, fun s t i v hexec hresp => ?operation, fun s t j v hrej hresp => ?rejected⟩
  case operation =>
    cases faultCause_of_status (d := .ok i) .preconditionViolation hexec hresp with
    | bsfOfZero => rfl
  case rejected => cases faultCause_of_status (d := .error j) .preconditionViolation hrej hresp

/-- Settles O42: a response other than OK is that of a raised fault, and raising one writes the response port only. -/
theorem faultChangesNothingButTheResponse : Obligations.FaultChangesNothingButTheResponse := by
  refine ⟨fun s t i r hexec hresp hstatus => ?operation, fun s j => rejectWord_eq j s⟩
  obtain ⟨f, -, rfl, rfl⟩ := faultCause_of_response (d := .ok i) hexec hresp hstatus
  exact ⟨rfl, rfl⟩

end Sys2Proof.Machine
end

section
/-! PROOFS for the family 70_reset_and_hazards.md: the step of a reset, plain or during a command (R150, R152), what keeps READY
(R23), and the statements O2 and O3 assembled from them. -/

namespace Sys2Proof.Machine

/-! ### What a reset does, and what keeps READY -/

/-- A reset takes its input and resets the unit, whether or not a command is under way and whatever that command is (R150,
R152). -/
theorem step_of_reset {s : State} {rest : List Input}
    (hin : s.inputs = .reset :: rest ∨ ∃ q w, s.inputs = .abandoned q w :: rest) :
    step s = .next (s.takeInput rest).resetUnit := by
  rcases hin with hin | ⟨q, w, hin⟩ <;> simp only [step, hin]

/-- READY, once set, outlasts every step but a reset: an idle step and a rejected word do not write it, and no operation
clears it (R23). -/
theorem step_keeps_ready_or_resets {s t : State} (hready : s.ready = true) (h : step s = .next t) :
    t.ready = true ∨ ∃ rest, s.inputs = .reset :: rest ∨ ∃ q w, s.inputs = .abandoned q w :: rest := by
  rcases step_next_cases h with ⟨-, rfl⟩ | ⟨rest, hin, -⟩ | ⟨q, w, rest, i, u, -, -, hexec, rfl⟩ |
    ⟨q, w, rest, j, -, -, rfl⟩
  · exact .inl hready
  · exact .inr ⟨rest, hin⟩
  · exact .inl ((State.deliver_ready u q).trans (exec_keeps_ready (s := s.takeInput rest) hready hexec))
  · exact .inl ((State.deliver_ready _ q).trans hready)

/-! ### The statements of the family -/

/-- Settles O2: the state after a reset has its unit's fields fixed, so a second reset changes none of them, and a step that
loses READY is a reset. -/
theorem resetFromAnyState : Obligations.ResetFromAnyState := by
  refine ⟨fun s rest hin => ?once, fun s t u rest hin hst htu => ?twice, fun s t hst hs ht => ?only⟩
  case once => exact ⟨_, step_of_reset (.inl hin), rfl, ByteCountTable.read_unspecified, rfl⟩
  case twice =>
    obtain rfl := Host.Outcome.next.inj ((step_of_reset (.inl hin)).symm.trans hst)
    obtain rfl := Host.Outcome.next.inj ((step_of_reset (.inl rfl)).symm.trans htu)
    exact ⟨rfl, rfl, rfl⟩
  case only => exact (step_keeps_ready_or_resets hs hst).resolve_left (by simp [ht])

/-- Settles O3: the step of an abandoned command is a reset's, which delivers nothing. -/
theorem resetDuringACommand : Obligations.ResetDuringACommand := fun _ q w _ hin =>
  ⟨_, step_of_reset (.inr ⟨q, w, hin⟩), rfl, rfl, ByteCountTable.read_unspecified, rfl⟩

end Sys2Proof.Machine
end

section
/-! PROOFS for the family other, 30_encoding.md: the encoder against the decoder (R60, R62), the response word (R61, R63), and
the statements O33, O35, O37 and O40 assembled from them. -/

namespace Sys2Proof

/-! ### The encoder against the decoder (R60, R62, R66) -/

theorem splitWord_encode (i : Instr) : splitWord (encode i) = encodeCommand i := splitWord_packCommand _

theorem decode_encode (i : Instr) : decode (encode i) = .ok i := by
  rw [decode, splitWord_encode]
  cases i <;> rfl

/-- Only the code 0 decodes to INIT (R62). -/
theorem op_zero_of_decode_init {w : CommandWord} (h : decode w = .ok .init) : (splitWord w).op = 0 := by
  rcases opCode_cases (splitWord w).op with h0 | h1 | h2 | h3
  · exact h0
  · simp [decode_of_op_one h1] at h
  · simp [decode_of_op_two h2] at h
  · simp [decode_of_op_three h3] at h

/-- A word that decodes to a query has the fields the encoder gives the query (R60). -/
theorem encodeCommand_of_decode {w : CommandWord} {i : Instr} (h : decode w = .ok i) (hi : i ≠ .init) :
    encodeCommand i = splitWord w := by
  rcases opCode_cases (splitWord w).op with h0 | h1 | h2 | h3
  · exact absurd (Except.ok.inj ((decode_of_op_zero h0).symm.trans h)).symm hi
  · obtain rfl := Except.ok.inj ((decode_of_op_one h1).symm.trans h)
    rw [encodeCommand, ← h1]
  · obtain rfl := Except.ok.inj ((decode_of_op_two h2).symm.trans h)
    rw [encodeCommand, ← h2]
  · simp [decode_of_op_three h3] at h

/-- The decoder's reading of the opcode table's bits is its reading of the word they lay out. -/
theorem decode_tableWord {nbits w : Nat} {i : Instr} (h : decodeTableWord nbits w = some i) :
    decode (tableWord nbits w) = .ok i := by
  unfold decodeTableWord at h
  split at h
  · cases hd : decode (tableWord nbits w) with
    | ok j => rw [hd] at h; exact congrArg Except.ok (Option.some.inj h)
    | error e => rw [hd] at h; cases h
  · cases h

end Sys2Proof

namespace Sys2Proof.Machine

/-! ### The response word (R61, R63) -/

theorem statusOf_statusCode (st : Status) : statusOf (statusCode st) = st := by
  cases st <;> rfl

theorem statusCode_statusOf (c : StatusCode) : statusCode (statusOf c) = c := by
  revert c; decide

/-- The bits of a response word: the result below bit 32, the status code from bit 32 up (R61). -/
theorem responseWord_getLsbD (r : Response) (i : Nat) :
    (responseWord r).getLsbD i = if i < 32 then r.result.getLsbD i else (statusCode r.status).getLsbD (i - 32) :=
  BitVec.getLsbD_append

theorem responseWord_result (r : Response) : (responseWord r).extractLsb' 0 32 = r.result := by
  ext i hi
  simp [responseWord_getLsbD, hi]

theorem responseWord_status (r : Response) : (responseWord r).extractLsb' 32 2 = statusCode r.status := by
  ext i hi
  simp [responseWord_getLsbD, BitVec.getLsbD_eq_getElem hi]

theorem responseOf_responseWord (r : Response) : responseOf (responseWord r) = r := by
  rw [responseOf, responseWord_result, responseWord_status, statusOf_statusCode]

theorem responseWord_responseOf (w : ResponseWord) : responseWord (responseOf w) = w := by
  have h : w.extractLsb' 32 2 ++ w.extractLsb' 0 32 = w.extractLsb' 0 (2 + 32) :=
    BitVec.extractLsb'_append_extractLsb'_eq_extractLsb' rfl
  rw [responseOf, responseWord, statusCode_statusOf]
  exact h.trans BitVec.extractLsb'_eq_self

/-! ### The statements -/

/-- Settles O33: the fields of an encoding are the operation's own, and a query's word has no field besides them. -/
theorem decodeAndEncodeAgree : Obligations.DecodeAndEncodeAgree := by
  refine ⟨decode_encode, fun w i h hi => ?query, fun w h => op_zero_of_decode_init h, packCommand_splitWord⟩
  rw [encode, encodeCommand_of_decode h hi, packCommand_splitWord]

/-- Settles O35: the five words by their operation codes. -/
theorem listedWordsDecode : Obligations.ListedWordsDecode :=
  ⟨decode_of_op_zero (by decide), decode_of_op_zero (by decide), decode_of_op_one (by decide),
    decode_of_op_two (by decide), decode_of_op_three (by decide)⟩

/-- Settles O37: both fields of a response word read back, and the status codes number the four statuses. -/
theorem responseWordLayout : Obligations.ResponseWordLayout := by
  refine ⟨fun r => ⟨responseWord_result r, (responseWord_status r).trans ?code⟩, responseOf_responseWord,
    responseWord_responseOf⟩
  cases r.status <;> rfl

/-- Settles O40: the word placed decodes to the operation, and taking it leaves the state it was placed in. -/
theorem placedWordRunsNext : Obligations.PlacedWordRunsNext := by
  intro s nbits w i h
  have hstep := step_of_command (State.present_inputs s 0 (tableWord nbits w))
  rw [decode_tableWord h] at hstep
  exact hstep

end Sys2Proof.Machine
end

section
/-! PROOFS for the family other, 10_state.md: what a step writes of READY and BCT (R20, R22, R23), the frames of the operations,
and the statements O4, O5, O7, O8, O9, O15, O30, O32, O39 and O41 assembled from them. -/

namespace Sys2Proof.Machine

/-! ### What an operation writes -/

/-- A query that completes has written the response port and nothing else (R91, R101). -/
theorem exec_query_next {s t : State} {i : Instr} (hi : i ≠ .init) (h : exec i s = .next t) :
    ∃ r, t = { s with response := some r } := by
  cases i with
  | init => exact absurd rfl hi
  | popcnt bb => rcases execPopcnt_next h with ⟨-, v, -, rfl⟩ | ⟨-, rfl⟩ <;> exact ⟨_, rfl⟩
  | bsf bb => rcases execBsf_next h with ⟨-, rfl⟩ | ⟨-, rfl⟩ <;> exact ⟨_, rfl⟩

theorem exec_leaves_response {s t : State} {i : Instr} (h : exec i s = .next t) : ∃ r, t.response = some r := by
  by_cases hi : i = .init
  · subst hi
    exact ⟨_, congrArg State.response (execInit_next h)⟩
  · obtain ⟨r, rfl⟩ := exec_query_next hi h
    exact ⟨r, rfl⟩

theorem step_of_no_input {s : State} (hin : s.inputs = []) : step s = .next s := by
  simp only [step, hin]

/-! ### What a step writes of the unit's state (R20, R22, R23) -/

/-- The next input is an INIT. -/
def State.TakesInit (s : State) : Prop := ∃ q w rest, s.inputs = .command q w :: rest ∧ decode w = .ok .init

/-- The next input is a reset, plain or during a command (R150, R152). -/
def State.TakesReset (s : State) : Prop :=
  ∃ rest, s.inputs = .reset :: rest ∨ ∃ q w, s.inputs = .abandoned q w :: rest

/-- An INIT sets READY, a reset clears READY and the table, and every other step leaves both as they are. -/
theorem step_unit_cases {s t : State} (h : step s = .next t) :
    (s.TakesInit ∧ t.ready = true) ∨
    (s.TakesReset ∧ t.ready = false ∧ t.bct = ByteCountTable.unspecified) ∨
    (t.ready = s.ready ∧ t.bct = s.bct) := by
  rcases step_next_cases h with ⟨-, rfl⟩ | ⟨rest, hin, rfl⟩ | ⟨q, w, rest, i, u, hin, hdec, hexec, rfl⟩ |
    ⟨q, w, rest, j, -, -, rfl⟩
  · exact .inr (.inr ⟨rfl, rfl⟩)
  · exact .inr (.inl ⟨⟨rest, hin⟩, rfl, rfl⟩)
  · rw [State.deliver_ready, State.deliver_bct]
    by_cases hi : i = .init
    · subst hi
      exact .inl ⟨⟨q, w, rest, hin, hdec⟩, congrArg State.ready (execInit_next hexec)⟩
    · obtain ⟨r, rfl⟩ := exec_query_next hi hexec
      exact .inr (.inr ⟨rfl, rfl⟩)
  · exact .inr (.inr ⟨State.deliver_ready _ q, State.deliver_bct _ q⟩)

/-! ### The statements -/

/-- Settles O7: a step that ends with READY = 0 was a reset, or left READY and the table as they were. -/
theorem everyStepKeepsTheUnbuiltTableAbsent : Obligations.EveryStepKeepsTheUnbuiltTableAbsent := by
  intro s t habsent hstep hready i
  rcases step_unit_cases hstep with ⟨-, hset⟩ | ⟨-, -, hbct⟩ | ⟨hkeep, hbct⟩
  · simp [hset] at hready
  · rw [hbct, ByteCountTable.read_unspecified]
  · rw [hbct]
    exact habsent (hkeep.symm.trans hready) i

/-- Settles O8: a step that changes READY is an INIT, which sets it, or a reset, which clears it. -/
theorem onlyInitSetsReadyOnlyResetClearsIt : Obligations.OnlyInitSetsReadyOnlyResetClearsIt := by
  refine fun s t hstep => ⟨fun hs ht => ?sets, fun hs ht => ?clears⟩
  case sets =>
    rcases step_unit_cases hstep with ⟨hinit, -⟩ | ⟨-, hclear, -⟩ | ⟨hkeep, -⟩
    · exact hinit
    · simp [hclear] at ht
    · simp [hkeep, hs] at ht
  case clears => exact (step_keeps_ready_or_resets hs hstep).resolve_left (by simp [ht])

/-- Settles O9: a step that is neither an INIT nor a reset leaves the whole table. -/
theorem onlyInitAndResetChangeTheTable : Obligations.OnlyInitAndResetChangeTheTable := by
  intro s t i hstep hne
  rcases step_unit_cases hstep with ⟨hinit, -⟩ | ⟨hreset, -⟩ | ⟨-, hbct⟩
  · exact .inl hinit
  · exact .inr hreset
  · exact absurd (by rw [hbct]) hne

/-- Settles O4: the step of a reset takes its input and resets the unit only. -/
theorem resetLeavesTheEnvironment : Obligations.ResetLeavesTheEnvironment := fun _ _ hin =>
  ⟨_, step_of_reset hin, rfl, rfl⟩

/-- Settles O5: READY is 0 at reset, so R23 asks nothing, and no entry of the table has a value. -/
theorem resetMeetsTheInvariants : Obligations.ResetMeetsTheInvariants :=
  ⟨⟨fun hready => Bool.noConfusion hready, rfl⟩, fun _ => ByteCountTable.read_unspecified⟩

/-- Settles O15: INIT's next state is the one it started from but for BCT, READY and the response. -/
theorem initFrame : Obligations.InitFrame := by
  intro s t hexec
  obtain rfl := execInit_next hexec
  exact ⟨rfl, rfl, rfl⟩

/-- Settles O30: the operand alone selects between the fault and the data path. -/
theorem bsfAnswersAlikeInEveryState : Obligations.BsfAnswersAlikeInEveryState := execBsf_response_fixed

/-- Settles O32: a query writes the response port only. -/
theorem queryFrame : Obligations.QueryFrame := by
  rintro s t i ⟨bb, hquery⟩ hexec
  have hi : i ≠ .init := by rcases hquery with rfl | rfl <;> simp
  obtain ⟨r, rfl⟩ := exec_query_next hi hexec
  exact ⟨fun _ => rfl, rfl, rfl, rfl⟩

/-- Settles O39: the step is exec's outcome with its response, which every operation leaves, delivered. -/
theorem stepRunsTheDecodedCommand : Obligations.StepRunsTheDecodedCommand := by
  intro s q w rest i hin hdec
  have hdecoded : execDecoded (decode w) (s.takeInput rest) = exec i { s with inputs := rest } := by rw [hdec]; rfl
  refine ⟨fun t r hexec hresp => step_of_response hin (hdecoded.trans hexec) hresp, fun f hexec => ?fault,
    fun t => exec_leaves_response⟩
  rw [step_of_command hin, hdecoded, hexec, deliverOutcome_fault]

/-- Settles O41: with no input left the step is the idle one. -/
theorem idleStepChangesNothing : Obligations.IdleStepChangesNothing := fun _ => step_of_no_input

end Sys2Proof.Machine
end

section
/-! PROOFS for the family other, 41_popcount.md and 42_bitscan.md: when the sum of POPCNT stops (log 2), the order of its bytes
(R95), the lowest one-bit alone (R111), the tables that invert the hash (R107), and the statements O19, O21, O22, O27 and O29
assembled from them. -/

namespace Sys2Proof.Machine

/-! ### Where the sum of POPCNT stops (log 2) -/

/-- The sum stops at a listed byte whose entry is absent, and names that entry. -/
theorem sumBytes_error {t : ByteCountTable} {bb : Bitboard} {js : List Nat} {sum : Sum} {i : TableIndex}
    (h : sumBytes t bb js sum = .error i) : t.read i = none ∧ ∃ j ∈ js, i = byteOf bb j := by
  induction js generalizing sum with
  | nil => cases h
  | cons j js ih =>
    unfold sumBytes at h
    split at h
    · next c hc =>
      obtain ⟨hnone, k, hk, hik⟩ := ih h
      exact ⟨hnone, k, List.mem_cons_of_mem j hk, hik⟩
    · next hnone =>
      obtain rfl := Except.error.inj h
      exact ⟨hnone, j, List.mem_cons_self, rfl⟩

/-- A sum that does not stop has found a value in the entry of every listed byte. -/
theorem reads_of_sumBytes_ok {t : ByteCountTable} {bb : Bitboard} {js : List Nat} {sum v : Sum}
    (h : sumBytes t bb js sum = .ok v) : ∀ j ∈ js, t.read (byteOf bb j) ≠ none := by
  induction js generalizing sum with
  | nil => simp
  | cons j js ih =>
    unfold sumBytes at h
    split at h
    · next c hc => exact List.forall_mem_cons.2 ⟨by simp [hc], ih h⟩
    · cases h

theorem execPopcnt_fault {s : State} {bb : Bitboard} {f : Fault} (h : execPopcnt bb s = .fault f) :
    s.ready = true ∧ ∃ i, f = .unspecifiedEntryRead i ∧ sumBytes s.bct bb byteNumbers 0 = .error i := by
  unfold execPopcnt at h
  split at h
  · next hready =>
    split at h
    · cases h
    · next i hi => exact ⟨hready, i, (Host.Outcome.fault.inj h).symm, hi⟩
  · cases h

theorem execPopcnt_of_sumBytes_error {s : State} {bb : Bitboard} {i : TableIndex} (hready : s.ready = true)
    (h : sumBytes s.bct bb byteNumbers 0 = .error i) : execPopcnt bb s = .fault (.unspecifiedEntryRead i) := by
  simp only [execPopcnt, hready, if_true, h]

theorem mem_byteNumbers {j : Nat} : j ∈ byteNumbers ↔ j < 8 := by
  rw [show byteNumbers = List.range 8 from rfl, List.mem_range]

/-! ### The lowest one-bit alone (R111) -/

/-- `bb AND (0 - bb)` keeps the lowest one-bit where it is. -/
theorem ctz64_and_neg {bb : Bitboard} {k : Nat} (h : ctz64 bb = some k) : ctz64 (bb &&& (0 - bb)) = some k := by
  obtain ⟨hlt, hk, hlow⟩ := ctz64_eq_some_iff.1 h
  have hneg : (0 - bb).getLsbD k = true := by
    have hnone : ¬ ∃ j < k, bb.getLsbD j = true := by
      rintro ⟨j, hj, hbit⟩
      simp [hlow j hj] at hbit
    simp [BitVec.getLsbD_neg, hk, hnone]
  refine ctz64_eq_some_iff.2 ⟨hlt, ?bit, fun j hj => ?below⟩
  case bit => rw [BitVec.getLsbD_and, hk, hneg, Bool.true_and]
  case below => rw [BitVec.getLsbD_and, hlow j hj, Bool.false_and]

/-! ### The tables that invert the hash (R107) -/

/-- The hash reaches every index, so a table that inverts it is fixed at every index. -/
theorem eq_of_invertsHash {multiplier : Bitboard} {table table' : Vector BitIndex 64}
    (h : InvertsHash multiplier table) (h' : InvertsHash multiplier table') : table = table' := by
  ext1 i hi
  obtain ⟨k, hk⟩ := (perfectHash_of_invertsHash h).surjective ⟨i, hi⟩
  have hki : (positionHash multiplier k).val = i := congrArg Fin.val hk
  subst hki
  exact BitVec.eq_of_toNat_eq ((h k).trans (h' k).symm)

/-! ### The statements -/

/-- Settles O22: POPCNT answers the number of one-bits, and each clearing drops one of them. -/
theorem popcntCountsTheClearings : Obligations.PopcntCountsTheClearings := by
  intro s bb hsound hready
  refine ⟨_, execPopcnt_of_tableSound bb hsound hready, ?zero, fun t ht => ?nonzero⟩
  case zero =>
    rw [toNat_ofNat_of_le_64 (popcountRef_le bb)]
    exact clearTimes_popcountRef bb
  case nonzero =>
    rw [toNat_ofNat_of_le_64 (popcountRef_le bb)] at ht
    exact ne_zero_of_ctz64 ((ctz64_clearTimes t bb).trans (getElem?_oneBits_eq_some_iff.2 ⟨ht, rfl⟩))

/-- Settles O19: the sum of the eight entries stops exactly where one of them is absent, and names one that is. -/
theorem popcntStopsOnlyOnAnAbsentEntry : Obligations.PopcntStopsOnlyOnAnAbsentEntry := by
  refine ⟨fun s bb j hready hnone => ?stops, fun s bb f hexec => ?only⟩
  case stops =>
    cases hsum : sumBytes s.bct bb byteNumbers 0 with
    | ok v => exact absurd hnone (reads_of_sumBytes_ok hsum j (mem_byteNumbers.2 j.isLt))
    | error i => exact ⟨i, execPopcnt_of_sumBytes_error hready hsum, (sumBytes_error hsum).1⟩
  case only =>
    obtain ⟨hready, i, rfl, hsum⟩ := execPopcnt_fault hexec
    obtain ⟨hnone, j, hj, rfl⟩ := sumBytes_error hsum
    exact ⟨hready, ⟨j, mem_byteNumbers.1 hj⟩, hnone⟩

/-- Settles O21: where no entry is absent the sum is that of the entries' values, and addition does not see their order. -/
theorem byteOrderDoesNotMatter : Obligations.ByteOrderDoesNotMatter := by
  intro t bb js hspecified hperm
  choose c hc using fun i => Option.ne_none_iff_exists'.1 (hspecified i)
  have hsum (ks : List Nat) := sumBytes_of_reads (bb := bb) (c := fun j => c (byteOf bb j)) ks 0 fun j _ => hc _
  rw [hsum js, hsum byteNumbers, (hperm.map _).sum_eq]

/-- Settles O29: zero stays zero, and any other operand keeps its lowest one-bit, which alone fixes the answer. -/
theorem bsfIgnoresHigherBits : Obligations.BsfIgnoresHigherBits := by
  intro s bb
  by_cases hzero : bb = 0
  · subst hzero; rfl
  · obtain ⟨k, hk⟩ := exists_ctz64_of_ne_zero hzero
    exact (execBsf_of_ctz64 hk s).trans (execBsf_of_ctz64 (ctz64_and_neg hk) s).symm

/-- Settles O27: the unit's table inverts its hash, which makes the multiplier a perfect hash and the table the only one. -/
theorem bitScanTableInvertsTheHash : Obligations.BitScanTableInvertsTheHash :=
  ⟨perfectHash_of_invertsHash bitScanTable_invertsHash, bitScanTable_invertsHash,
    fun _ h => eq_of_invertsHash h bitScanTable_invertsHash⟩

end Sys2Proof.Machine
end

section
/-! PROOFS for the family other, 00_scope.md and 20_memory.md: one step and one run against the reference machine whose whole
state is READY (R49 (a)), INIT since the last reset as that machine's READY (R49 (b)), one requester's responses (R49 (c)), and
the statements O6, O44, O45, O48, O49, O50 and O51 assembled from them. -/

namespace Sys2Proof.Machine

/-! ### The reference machine -/

/-- The reference machine's deliveries for one input: a command's answer, and none for a reset (R61, R152). -/
def referenceDeliveries (ready : Bool) (i : Input) : List Delivery :=
  match i with
  | .command q w => [⟨q, referenceAnswer ready w⟩]
  | .reset => []
  | .abandoned _ _ => []

theorem referenceReady_of_init {w : CommandWord} (ready : Bool) (q : Nat) (h : (splitWord w).op = 0) :
    referenceReady ready (.command q w) = true :=
  if_pos (congrArg BitVec.toNat h)

theorem referenceReady_of_op_ne_zero {w : CommandWord} (ready : Bool) (q : Nat) (h : (splitWord w).op ≠ 0) :
    referenceReady ready (.command q w) = ready :=
  if_neg fun hzero => h (BitVec.eq_of_toNat_eq hzero)

theorem referenceRun_cons (ready : Bool) (i : Input) (rest : List Input) :
    referenceRun ready (i :: rest) =
      ((referenceRun (referenceReady ready i) rest).1,
        referenceDeliveries ready i ++ (referenceRun (referenceReady ready i) rest).2) := by
  cases i <;> rfl

/-- A run of the reference machine in two parts: the second starts from the READY the first ends with. -/
theorem referenceRun_append (ready : Bool) (before after : List Input) :
    referenceRun ready (before ++ after) =
      ((referenceRun (referenceRun ready before).1 after).1,
        (referenceRun ready before).2 ++ (referenceRun (referenceRun ready before).1 after).2) := by
  induction before generalizing ready with
  | nil => rfl
  | cons i rest ih => simp only [List.cons_append, referenceRun_cons, ih, List.append_assoc]

/-- The reference machine delivers one response per command (R61). -/
theorem length_referenceRun (ready : Bool) (inputs : List Input) :
    (referenceRun ready inputs).2.length = inputs.countP Input.isCommand := by
  induction inputs generalizing ready with
  | nil => rfl
  | cons i rest ih =>
    rw [referenceRun_cons, List.length_append, ih, List.countP_cons, Nat.add_comm]
    cases i <;> rfl

/-- A command's delivery stands after those of the inputs before it, and reads the READY they leave. -/
theorem referenceRun_command_between (ready : Bool) (before after : List Input) (q : Nat) (w : CommandWord) :
    ∃ later, (referenceRun ready (before ++ .command q w :: after)).2 =
      (referenceRun ready before).2 ++ ⟨q, referenceAnswer (referenceRun ready before).1 w⟩ :: later := by
  rw [referenceRun_append, referenceRun_cons]
  exact ⟨_, rfl⟩

/-! ### A step and a run refine it (R15, R49 (a)) -/

/-- The simulation step: from a state that meets the invariant, the machine takes its next input, meets the invariant again,
and has the READY and the new deliveries of the reference machine. -/
theorem step_refines {s : State} {i : Input} {rest : List Input} (hs : s.Inv) (hin : s.inputs = i :: rest) :
    ∃ t, step s = .next t ∧ t.Inv ∧ t.inputs = rest ∧ t.ready = referenceReady s.ready i ∧
      t.delivered = s.delivered ++ referenceDeliveries s.ready i := by
  have hreset (hin : s.inputs = .reset :: rest ∨ ∃ q w, s.inputs = .abandoned q w :: rest) :
      ∃ t, step s = .next t ∧ t.Inv ∧ t.inputs = rest ∧ t.ready = false ∧ t.delivered = s.delivered ++ [] :=
    ⟨_, step_of_reset hin, ⟨fun hready => Bool.noConfusion hready, rfl⟩, rfl, rfl, (List.append_nil _).symm⟩
  match i with
  | .reset => exact hreset (.inl hin)
  | .abandoned q w => exact hreset (.inr ⟨q, w, hin⟩)
  | .command q w =>
    obtain ⟨t, hstep, hinputs, hresp, hdel, hinit, hother⟩ :=
      everyCommandFollowsTheOutcomeTable s q w rest hs hin
    by_cases hop : (splitWord w).op = 0
    · obtain ⟨hready, hcounted, -⟩ := hinit hop
      exact ⟨t, hstep, ⟨fun _ => hcounted, hresp⟩, hinputs,
        hready.trans (referenceReady_of_init s.ready q hop).symm, hdel⟩
    · obtain ⟨hready, hbct⟩ := hother hop
      refine ⟨t, hstep, ⟨fun h => ?_, hresp⟩, hinputs,
        hready.trans (referenceReady_of_op_ne_zero s.ready q hop).symm, hdel⟩
      rw [hbct]
      exact hs.1 (hready.symm.trans h)

/-- INIT from any state whatever: the invariant holds after it, with READY = 1, and its answer is delivered (R83). -/
theorem step_of_init {s : State} {q : Nat} {w : CommandWord} {rest : List Input}
    (hin : s.inputs = .command q w :: rest) (hdec : decode w = .ok .init) :
    ∃ t, step s = .next t ∧ t.Inv ∧ t.ready = true ∧ t.inputs = rest ∧
      t.delivered = s.delivered ++ [⟨q, ⟨.ok, 0⟩⟩] := by
  have hexec : execDecoded (decode w) (s.takeInput rest) = execInit (s.takeInput rest) := by rw [hdec]; rfl
  exact ⟨_, step_of_response hin (hexec.trans (execInit_eq _)) rfl, ⟨fun _ => builtTable_counted s.bct, rfl⟩,
    rfl, rfl, rfl⟩

/-- A run whose first step answers a next state goes on from there. -/
theorem run_succ_of_step {s t : State} (k : Nat) (h : step s = .next t) :
    Host.Core.run core (k + 1) s = Host.Core.run core k t := by
  have hcore : core.step s = .next t := h
  simp only [Host.Core.run, hcore]

theorem runAll_of_step {s t : State} {i : Input} (hin : s.inputs = i :: t.inputs) (h : step s = .next t) :
    s.runAll = t.runAll := by
  rw [State.runAll, hin, List.length_cons, run_succ_of_step _ h, State.runAll]

/-- The simulation, by induction on the inputs. -/
theorem runAll_refines {s : State} {inputs : List Input} (hs : s.Inv) (hin : s.inputs = inputs) :
    ∃ t, s.runAll = .next t ∧ t.Inv ∧ t.inputs = [] ∧ t.ready = (referenceRun s.ready inputs).1 ∧
      t.delivered = s.delivered ++ (referenceRun s.ready inputs).2 := by
  induction inputs generalizing s with
  | nil => exact ⟨s, by rw [State.runAll, hin]; rfl, hs, hin, rfl, (List.append_nil _).symm⟩
  | cons i rest ih =>
    obtain ⟨u, hstep, hu, huin, huready, hudel⟩ := step_refines hs hin
    obtain ⟨t, hrun, ht, htin, htready, htdel⟩ := ih hu huin
    rw [referenceRun_cons, ← huready]
    refine ⟨t, (runAll_of_step (huin ▸ hin) hstep).trans hrun, ht, htin, htready, ?_⟩
    rw [htdel, hudel, List.append_assoc]

/-! ### INIT since the last reset is the reference machine's READY (R22, R49 (b)) -/

/-- An INIT is among the inputs, and no reset comes after it: the second way of `InitSinceReset`. -/
def InitWithNoResetAfter (inputs : List Input) : Prop :=
  ∃ (earlier later : List Input) (r : Nat) (w : CommandWord),
    inputs = earlier ++ .command r w :: later ∧ decode w = .ok .init ∧ ∀ i ∈ later, i.isCommand = true

theorem initSinceReset_def (ready : Bool) (before : List Input) :
    InitSinceReset ready before ↔
      (ready = true ∧ ∀ i ∈ before, i.isCommand = true) ∨ InitWithNoResetAfter before := Iff.rfl

theorem initWithNoResetAfter_cons (i : Input) (rest : List Input) :
    InitWithNoResetAfter (i :: rest) ↔
      ((∃ r w, i = .command r w ∧ decode w = .ok .init) ∧ ∀ j ∈ rest, j.isCommand = true) ∨
      InitWithNoResetAfter rest := by
  constructor
  · rintro ⟨earlier, later, r, w, hsplit, hdec, hlater⟩
    cases earlier with
    | nil =>
      obtain ⟨rfl, rfl⟩ := List.cons.inj hsplit
      exact .inl ⟨⟨r, w, rfl, hdec⟩, hlater⟩
    | cons e es =>
      obtain ⟨rfl, rfl⟩ := List.cons.inj hsplit
      exact .inr ⟨es, later, r, w, rfl, hdec, hlater⟩
  · rintro (⟨⟨r, w, rfl, hdec⟩, hrest⟩ | ⟨earlier, later, r, w, rfl, hdec, hlater⟩)
    · exact ⟨[], rest, r, w, rfl, hdec, hrest⟩
    · exact ⟨i :: earlier, later, r, w, rfl, hdec, hlater⟩

/-- The reference machine's READY after one input, in the words of R22. -/
theorem referenceReady_eq_true_iff (ready : Bool) (i : Input) :
    referenceReady ready i = true ↔
      (ready = true ∧ i.isCommand = true) ∨ ∃ r w, i = .command r w ∧ decode w = .ok .init := by
  match i with
  | .reset => simp [referenceReady, Input.isCommand]
  | .abandoned q w => simp [referenceReady, Input.isCommand]
  | .command q w =>
    by_cases hop : (splitWord w).op = 0
    · simp [referenceReady_of_init ready q hop, decode_of_op_zero hop]
    · have hdec : decode w ≠ .ok .init := fun h => hop (op_zero_of_decode_init h)
      simp [referenceReady_of_op_ne_zero ready q hop, hdec, Input.isCommand]

theorem initSinceReset_cons (ready : Bool) (i : Input) (rest : List Input) :
    InitSinceReset ready (i :: rest) ↔ InitSinceReset (referenceReady ready i) rest := by
  rw [initSinceReset_def, initSinceReset_def, initWithNoResetAfter_cons, referenceReady_eq_true_iff,
    List.forall_mem_cons, or_and_right, and_assoc, or_assoc]

theorem initSinceReset_iff (ready : Bool) (before : List Input) :
    InitSinceReset ready before ↔ (referenceRun ready before).1 = true := by
  induction before generalizing ready with
  | nil => simp [InitSinceReset, referenceRun]
  | cons i rest ih => rw [initSinceReset_cons, ih, referenceRun_cons]

theorem referenceAnswer_popcnt_ready (bb : Bitboard) :
    referenceAnswer true (encode (.popcnt bb)) = ⟨.ok, BitVec.ofNat 32 (popcountRef bb)⟩ := by
  have h := splitWord_encode (.popcnt bb)
  rw [referenceAnswer_of_op_one_ready (by rw [h]; rfl), h]
  rfl

theorem referenceAnswer_popcnt_not_ready (bb : Bitboard) :
    referenceAnswer false (encode (.popcnt bb)) = ⟨.uninitializedTable, 0xFFFFFFFF⟩ :=
  referenceAnswer_of_op_one_not_ready (by rw [splitWord_encode]; rfl)

/-! ### One requester's responses (R49 (c), R137) -/

theorem responsesTo_append (q : Nat) (ds es : List Delivery) :
    responsesTo q (ds ++ es) = responsesTo q ds ++ responsesTo q es := by
  simp [responsesTo]

/-- With READY = 1 and no reset, a requester receives the table's answers to its own commands. -/
theorem responsesTo_referenceRun (q : Nat) {inputs : List Input} (h : ∀ i ∈ inputs, i.isCommand = true) :
    responsesTo q (referenceRun true inputs).2 = (commandsOf q inputs).map (referenceAnswer true) := by
  induction inputs with
  | nil => rfl
  | cons i rest ih =>
    obtain ⟨hi, hrest⟩ := List.forall_mem_cons.1 h
    have hready : referenceReady true i = true := (referenceReady_eq_true_iff true i).2 (.inl ⟨rfl, hi⟩)
    rw [referenceRun_cons, hready, responsesTo_append, ih hrest]
    match i, hi with
    | .command r w, _ => by_cases hrq : r = q <;> simp [referenceDeliveries, responsesTo, commandsOf, hrq]

/-- The run of a requester whose unit is ready, and what it has received at the end. -/
theorem runAll_responsesTo {s : State} (q : Nat) (hs : s.Inv) (hready : s.ready = true)
    (hin : ∀ i ∈ s.inputs, i.isCommand = true) :
    ∃ t, s.runAll = .next t ∧
      responsesTo q t.delivered =
        responsesTo q s.delivered ++ (commandsOf q s.inputs).map (referenceAnswer true) := by
  obtain ⟨t, hrun, -, -, -, hdel⟩ := runAll_refines hs rfl
  refine ⟨t, hrun, ?_⟩
  rw [hdel, hready, responsesTo_append, responsesTo_referenceRun q hin]

/-! ### The statements -/

/-- Settles O6: an idle step changes nothing, and any other is the simulation step. -/
theorem everyStepKeepsTheTableSound : Obligations.EveryStepKeepsTheTableSound := by
  intro s t hs hstep
  cases hin : s.inputs with
  | nil =>
    obtain rfl := Host.Outcome.next.inj ((step_of_no_input hin).symm.trans hstep)
    exact hs
  | cons i rest =>
    obtain ⟨u, hu, hinv, -⟩ := step_refines hs hin
    obtain rfl := Host.Outcome.next.inj (hu.symm.trans hstep)
    exact hinv

/-- Settles O44: the idle step and the simulation step both answer a next state. -/
theorem everyStepCompletes : Obligations.EveryStepCompletes := by
  intro s hs
  cases hin : s.inputs with
  | nil => exact ⟨s, step_of_no_input hin⟩
  | cons i rest =>
    obtain ⟨t, hstep, -⟩ := step_refines hs hin
    exact ⟨t, hstep⟩

/-- Settles O45: a command's step delivers the table's answer; the idle step and a reset deliver nothing. -/
theorem oneResponsePerCommand : Obligations.OneResponsePerCommand := by
  refine ⟨fun s q w rest hs hin => ?command, fun s t hnone hstep => ?other⟩
  case command =>
    obtain ⟨t, hstep, hinv, hinputs, -, hdel⟩ := step_refines hs hin
    exact ⟨t, referenceAnswer s.ready w, hstep, hdel, hinv.2, hinputs⟩
  case other =>
    rcases step_next_cases hstep with ⟨-, rfl⟩ | ⟨rest, -, rfl⟩ | ⟨q, w, rest, i, u, hin, -⟩ |
      ⟨q, w, rest, j, hin, -⟩
    · rfl
    · rfl
    · exact absurd hin (hnone q w rest)
    · exact absurd hin (hnone q w rest)

/-- Settles O48: the simulation over all the inputs. -/
theorem everyRunRefinesTheReference : Obligations.EveryRunRefinesTheReference := fun _ hs => runAll_refines hs rfl

/-- Settles O49: the run before the POPCNT ends with READY = 1 exactly when an INIT came since the last reset, and READY
selects the answer. -/
theorem popcntAnswersByWhetherInitCameFirst : Obligations.PopcntAnswersByWhetherInitCameFirst := by
  intro s before after q bb hs hin
  obtain ⟨t, hrun, -, -, -, hdel⟩ := runAll_refines hs hin
  obtain ⟨later, hlater⟩ := referenceRun_command_between s.ready before after q (encode (.popcnt bb))
  rw [hlater, ← List.append_assoc] at hdel
  refine ⟨t, (referenceRun s.ready before).2, later, hrun, length_referenceRun s.ready before, fun hinit => ?ok,
    fun hnone => ?fault⟩
  case ok =>
    rw [hdel, (initSinceReset_iff s.ready before).1 hinit, referenceAnswer_popcnt_ready]
  case fault =>
    have hready : (referenceRun s.ready before).1 = false := by
      simpa using mt (initSinceReset_iff s.ready before).2 hnone
    rw [hdel, hready, referenceAnswer_popcnt_not_ready]

/-- Settles O50: at the end of both runs the requester has what it had, and the answers to its own commands. -/
theorem aRequesterSeesOnlyItsOwnCommands : Obligations.ARequesterSeesOnlyItsOwnCommands := by
  intro s t q hs ht hsready htready hsin htin hcommands hdelivered
  obtain ⟨s', hsrun, hs'⟩ := runAll_responsesTo q hs hsready hsin
  obtain ⟨t', htrun, ht'⟩ := runAll_responsesTo q ht htready htin
  exact ⟨s', t', hsrun, htrun, by rw [hs', ht', hcommands, hdelivered]⟩

/-- Settles O51: INIT from any state gives one that meets the invariant with READY = 1, and the POPCNT takes its step there. -/
theorem popcntRightAfterInitIsExact : Obligations.PopcntRightAfterInitIsExact := by
  intro s q r w bb rest hdec hin
  obtain ⟨u, hinit, hu, huready, huin, hudel⟩ := step_of_init hin hdec
  obtain ⟨t, hpopcnt, -, hinputs, hready, hdel⟩ := step_refines hu huin
  have hne : (splitWord (encode (.popcnt bb))).op ≠ 0 := by simp [splitWord_encode, encodeCommand]
  rw [referenceReady_of_op_ne_zero _ r hne, huready] at hready
  refine ⟨t, ?run, hready, hinputs, ?delivered⟩
  case run =>
    rw [run_succ_of_step 1 hinit, run_succ_of_step 0 hpopcnt]
    rfl
  case delivered =>
    rw [hdel, hudel, huready, referenceDeliveries, referenceAnswer_popcnt_ready, List.append_assoc]
    rfl

end Sys2Proof.Machine
end

section
/-! PROOFS for the family other, 30_encoding.md R69: the digits a number is written with, the literals and the words of a line,
the split of a line at its arrow, and the statement O38 assembled from them. -/

namespace Sys2Proof.Machine

/-! ### Hexadecimal digits and literals (R69, log 10) -/

/-- The last n hexadecimal digits of a number, most significant first, as values. -/
def hexDigitsOf (n v : Nat) : List Nat :=
  match n with
  | 0 => []
  | k + 1 => hexDigitsOf k (v / 16) ++ [v % 16]

theorem hexText_eq_map (n v : Nat) : hexText n v = (hexDigitsOf n v).map hexChar := by
  induction n generalizing v with
  | zero => rfl
  | succ k ih => rw [hexText, ih, hexDigitsOf, List.map_append, List.map_singleton]

theorem length_hexDigitsOf (n v : Nat) : (hexDigitsOf n v).length = n := by
  induction n generalizing v with
  | zero => rfl
  | succ k ih => rw [hexDigitsOf, List.length_append, ih, List.length_singleton]

theorem lt_of_mem_hexDigitsOf {n v d : Nat} (h : d ∈ hexDigitsOf n v) : d < 16 := by
  induction n generalizing v with
  | zero => cases h
  | succ k ih =>
    rcases List.mem_append.1 h with hhigh | hlow
    · exact ih hhigh
    · rw [List.mem_singleton.1 hlow]
      exact Nat.mod_lt v (by decide)

theorem digitsValue_append_singleton (base : Nat) (ds : List Nat) (d : Nat) :
    digitsValue base (ds ++ [d]) = digitsValue base ds * base + d := by
  simp [digitsValue, List.foldl_append]

/-- The last n digits stand for the number modulo 16^n. -/
theorem digitsValue_hexDigitsOf (n v : Nat) : digitsValue 16 (hexDigitsOf n v) = v % 16 ^ n := by
  induction n generalizing v with
  | zero => rw [Nat.pow_zero, Nat.mod_one]; rfl
  | succ k ih => rw [hexDigitsOf, digitsValue_append_singleton, ih, Nat.pow_succ', Nat.mod_mul]; omega

theorem hexDigit_hexChar : ∀ d < 16, hexDigit (hexChar d) = some d := by decide

theorem hexChar_ne_underscore : ∀ d < 16, hexChar d ≠ '_' := by decide

/-- Digits read back, after a digit; with at least one of them, at the start of a literal as well. -/
theorem hexDigits_map_hexChar (ds : List Nat) (afterDigit : Bool) (h : ∀ d ∈ ds, d < 16)
    (hstart : ds ≠ [] ∨ afterDigit = true) : hexDigits (ds.map hexChar) afterDigit = some ds := by
  induction ds generalizing afterDigit with
  | nil => simp [hexDigits, hstart.resolve_left]
  | cons d ds ih =>
    obtain ⟨hd, hds⟩ := List.forall_mem_cons.1 h
    simp only [List.map_cons, hexDigits, if_neg (hexChar_ne_underscore d hd), hexDigit_hexChar d hd,
      ih true hds (.inr rfl)]

/-- A word written with all its digits is a literal of its width. -/
theorem literal_hexText {n : Nat} (hn : n ≠ 0) (v : BitVec (n * 4)) :
    literal (n * 4) ('0' :: 'x' :: hexText n v.toNat) = some v := by
  have hne : hexDigitsOf n v.toNat ≠ [] := by
    rw [← List.length_pos_iff, length_hexDigitsOf]
    exact Nat.pos_of_ne_zero hn
  have hdigits := hexDigits_map_hexChar _ false (fun _ => lt_of_mem_hexDigitsOf) (.inl hne)
  have hvalue : digitsValue 16 (hexDigitsOf n v.toNat) = v.toNat := by
    have hlt : v.toNat < 16 ^ n := v.isLt.trans_eq (by rw [Nat.mul_comm, Nat.pow_mul])
    rw [digitsValue_hexDigitsOf, Nat.mod_eq_of_lt hlt]
  simp only [literal, hexText_eq_map, hdigits, length_hexDigitsOf, le_refl, if_true, hvalue, BitVec.ofNat_toNat,
    BitVec.setWidth_eq]

/-! ### The words of a line -/

/-- A character that is part of a word: no blank, no comment mark, no arrow. -/
def isWordChar (c : Char) : Bool := !isBlank c && c != ';' && c != '-'

/-- A word of a line: at least one character, all of them a word's. -/
def IsWord (w : List Char) : Prop := w ≠ [] ∧ ∀ c ∈ w, isWordChar c = true

theorem isBlank_of_isWordChar {c : Char} (h : isWordChar c = true) : isBlank c = false := by
  simp only [isWordChar, Bool.and_eq_true, Bool.not_eq_true'] at h
  exact h.1.1

theorem lineWords_append {w : List Char} (h : ∀ c ∈ w, isWordChar c = true) (cs word : List Char) :
    lineWords (w ++ cs) word = lineWords cs (w.reverse ++ word) := by
  induction w generalizing word with
  | nil => rfl
  | cons c w ih =>
    obtain ⟨hc, hw⟩ := List.forall_mem_cons.1 h
    simp [lineWords, isBlank_of_isWordChar hc, ih hw]

theorem lineWords_word {w : List Char} (h : IsWord w) : lineWords w [] = [w] := by
  have hw := lineWords_append h.2 [] []
  simpa [lineWords, h.1] using hw

theorem lineWords_word_blank {w : List Char} (h : IsWord w) (cs : List Char) :
    lineWords (w ++ ' ' :: cs) [] = w :: lineWords cs [] := by
  rw [lineWords_append h.2]
  simp [lineWords, isBlank, h.1]

theorem lineWords_blank (cs : List Char) : lineWords (' ' :: cs) [] = lineWords cs [] := by
  simp [lineWords, isBlank]

theorem isWordChar_hexChar : ∀ d < 16, isWordChar (hexChar d) = true := by decide

theorem isWord_hexLiteral (n v : Nat) : IsWord ('0' :: 'x' :: hexText n v) := by
  refine ⟨List.cons_ne_nil _ _, List.forall_mem_cons.2 ⟨by decide, List.forall_mem_cons.2 ⟨by decide, ?_⟩⟩⟩
  rw [hexText_eq_map, List.forall_mem_map]
  exact fun d hd => isWordChar_hexChar d (lt_of_mem_hexDigitsOf hd)

/-- A blank at the end of a line adds no word. -/
theorem lineWords_append_blank (cs word : List Char) : lineWords (cs ++ [' ']) word = lineWords cs word := by
  induction cs generalizing word with
  | nil => by_cases h : word = [] <;> simp [lineWords, isBlank, h]
  | cons c cs ih => simp only [List.cons_append, lineWords, ih]

theorem IsWord.not_mem {w : List Char} (h : IsWord w) {c : Char} (hc : isWordChar c = false) : c ∉ w := fun hmem => by
  simp [h.2 c hmem] at hc

/-! ### A line and its annotation -/

theorem withoutComment_eq_self {cs : List Char} (h : ';' ∉ cs) : withoutComment cs = cs :=
  List.takeWhile_eq_self_iff.2 fun _ hc => decide_eq_true (ne_of_mem_of_not_mem hc h)

theorem splitArrow_cons {c : Char} (hc : c ≠ '-') (cs : List Char) :
    splitArrow (c :: cs) = (c :: (splitArrow cs).1, (splitArrow cs).2) := by
  rw [splitArrow]
  rintro rest h -
  exact hc h

theorem splitArrow_of_not_mem {cs : List Char} (h : '-' ∉ cs) : splitArrow cs = (cs, none) := by
  induction cs with
  | nil => rfl
  | cons c cs ih =>
    rw [splitArrow_cons (List.ne_of_not_mem_cons h).symm, ih (List.not_mem_of_not_mem_cons h)]

theorem splitArrow_append {cs : List Char} (h : '-' ∉ cs) (note : List Char) :
    splitArrow (cs ++ '-' :: '>' :: note) = (cs, some note) := by
  induction cs with
  | nil => rfl
  | cons c cs ih =>
    rw [List.cons_append, splitArrow_cons (List.ne_of_not_mem_cons h).symm, ih (List.not_mem_of_not_mem_cons h)]

theorem parseLine_bare {cs : List Char} (hcomment : ';' ∉ cs) (harrow : '-' ∉ cs) :
    parseLine cs = itemOf (lineWords cs []) none := by
  simp only [parseLine, withoutComment_eq_self hcomment, splitArrow_of_not_mem harrow]

/-- A line with an annotation of R69 is the item of its part before the arrow, with the response annotated. -/
theorem parseLine_annotated {cs note : List Char} {r : Response} (hcomment : ';' ∉ cs) (harrow : '-' ∉ cs)
    (hnote : ';' ∉ note) (hann : annotation (lineWords note []) = some r) :
    parseLine (cs ++ '-' :: '>' :: note) = itemOf (lineWords cs []) (some r) := by
  have hline : ';' ∉ cs ++ '-' :: '>' :: note := by simp [hcomment, hnote]
  simp only [parseLine, withoutComment_eq_self hline, splitArrow_append harrow, hann]

/-! ### The canonical line of an operation (log 10) -/

/-- The operand of a canonical line. -/
def operandText (bb : Bitboard) : List Char := '0' :: 'x' :: hexText 16 bb.toNat

/-- The words of a canonical line. -/
def listingWords (i : Instr) : List (List Char) :=
  match i with
  | .init => [textInit]
  | .popcnt bb => [textPopcnt, operandText bb]
  | .bsf bb => [textBsf, operandText bb]

theorem isWord_textInit : IsWord textInit := ⟨by decide, List.all_eq_true.1 rfl⟩
theorem isWord_textPopcnt : IsWord textPopcnt := ⟨by decide, List.all_eq_true.1 rfl⟩
theorem isWord_textBsf : IsWord textBsf := ⟨by decide, List.all_eq_true.1 rfl⟩
theorem isWord_operandText (bb : Bitboard) : IsWord (operandText bb) := isWord_hexLiteral 16 bb.toNat

theorem lineWords_mnemonic_operand {w : List Char} (h : IsWord w) (bb : Bitboard) :
    lineWords (w ++ ' ' :: operandText bb) [] = [w, operandText bb] := by
  rw [lineWords_word_blank h, lineWords_word (isWord_operandText bb)]

theorem listingLine_popcnt (bb : Bitboard) : listingLine (.popcnt bb) = textPopcnt ++ ' ' :: operandText bb := by
  simp [listingLine, operandText]

theorem listingLine_bsf (bb : Bitboard) : listingLine (.bsf bb) = textBsf ++ ' ' :: operandText bb := by
  simp [listingLine, operandText]

theorem lineWords_listingLine (i : Instr) : lineWords (listingLine i) [] = listingWords i := by
  cases i with
  | init => exact lineWords_word isWord_textInit
  | popcnt bb => rw [listingLine_popcnt, lineWords_mnemonic_operand isWord_textPopcnt]; rfl
  | bsf bb => rw [listingLine_bsf, lineWords_mnemonic_operand isWord_textBsf]; rfl

theorem not_mem_mnemonic_operand {w : List Char} (h : IsWord w) (bb : Bitboard) {c : Char}
    (hc : isWordChar c = false) (hblank : c ≠ ' ') : c ∉ w ++ ' ' :: operandText bb := by
  simp [h.not_mem hc, (isWord_operandText bb).not_mem hc, hblank]

/-- A canonical line is made of word characters and the blank between its two words. -/
theorem not_mem_listingLine (i : Instr) {c : Char} (hc : isWordChar c = false) (hblank : c ≠ ' ') :
    c ∉ listingLine i := by
  cases i with
  | init => exact isWord_textInit.not_mem hc
  | popcnt bb => rw [listingLine_popcnt]; exact not_mem_mnemonic_operand isWord_textPopcnt bb hc hblank
  | bsf bb => rw [listingLine_bsf]; exact not_mem_mnemonic_operand isWord_textBsf bb hc hblank

theorem literal_operandText (bb : Bitboard) : literal 64 (operandText bb) = some bb :=
  literal_hexText (n := 16) (by decide) bb

theorem mnemonicOf_textInit : mnemonicOf textInit = some .init := by decide
theorem mnemonicOf_textPopcnt : mnemonicOf textPopcnt = some .popcnt := by decide
theorem mnemonicOf_textBsf : mnemonicOf textBsf = some .bsf := by decide

/-- The words of a canonical line stand for the operation's command word. -/
theorem itemOf_listingWords (i : Instr) (expected : Option Response) :
    itemOf (listingWords i) expected = .ok (some (.command (encode i) expected)) := by
  cases i with
  | init => simp only [listingWords, itemOf, mnemonicOf_textInit, commandLine]
  | popcnt bb => simp only [listingWords, itemOf, mnemonicOf_textPopcnt, commandLine, literal_operandText]
  | bsf bb => simp only [listingWords, itemOf, mnemonicOf_textBsf, commandLine, literal_operandText]

theorem parseLine_listingLine (i : Instr) : parseLine (listingLine i) = .ok (some (.command (encode i) none)) := by
  rw [parseLine_bare (not_mem_listingLine i rfl (by decide)) (not_mem_listingLine i rfl (by decide)),
    lineWords_listingLine, itemOf_listingWords]

/-- A canonical line with a blank, the arrow and an annotation is its command word with the response annotated. -/
theorem parseLine_listingLine_annotated (i : Instr) {note : List Char} {r : Response} (hnote : ';' ∉ note)
    (hann : annotation (lineWords note []) = some r) :
    parseLine (listingLine i ++ ' ' :: '-' :: '>' :: note) = .ok (some (.command (encode i) (some r))) := by
  have hnot {c : Char} (hc : isWordChar c = false) (hblank : c ≠ ' ') : c ∉ listingLine i ++ [' '] := by
    simp [not_mem_listingLine i hc hblank, hblank]
  have hparse := parseLine_annotated (hnot rfl (by decide)) (hnot rfl (by decide)) hnote hann
  rw [lineWords_append_blank, lineWords_listingLine, itemOf_listingWords, List.append_assoc] at hparse
  exact hparse

/-- An annotation of one word, after the arrow and a blank. -/
theorem parseLine_listingLine_word (i : Instr) {w : List Char} {r : Response} (hw : IsWord w)
    (hann : annotation [w] = some r) :
    parseLine (listingLine i ++ [' ', '-', '>', ' '] ++ w) = .ok (some (.command (encode i) (some r))) := by
  rw [List.append_assoc]
  refine parseLine_listingLine_annotated i (note := ' ' :: w) ?_ ?_
  · simp [hw.not_mem (c := ';') rfl]
  · rw [lineWords_blank, lineWords_word hw, hann]

/-! ### The annotations (R69) -/

theorem isWord_textOk : IsWord textOk := ⟨by decide, List.all_eq_true.1 rfl⟩
theorem isWord_textPrecondition : IsWord textPrecondition := ⟨by decide, List.all_eq_true.1 rfl⟩
theorem isWord_textUninitialized : IsWord textUninitialized := ⟨by decide, List.all_eq_true.1 rfl⟩
theorem isWord_textIllegal : IsWord textIllegal := ⟨by decide, List.all_eq_true.1 rfl⟩

theorem annotation_ok (v : ResultWord) :
    annotation [textOk, '0' :: 'x' :: hexText 8 v.toNat] = some ⟨.ok, v⟩ := by
  have hv : literal 32 ('0' :: 'x' :: hexText 8 v.toNat) = some v := literal_hexText (n := 8) (by decide) v
  simp only [annotation, if_true, hv, Option.map_some]

theorem parseLine_listingLine_ok (i : Instr) (v : ResultWord) :
    parseLine (listingLine i ++ [' ', '-', '>', ' ', 'O', 'K', ' ', '0', 'x'] ++ hexText 8 v.toNat) =
      .ok (some (.command (encode i) (some ⟨.ok, v⟩))) := by
  have hword := isWord_hexLiteral 8 v.toNat
  rw [List.append_assoc]
  refine parseLine_listingLine_annotated i
    (note := ' ' :: (textOk ++ ' ' :: '0' :: 'x' :: hexText 8 v.toNat)) ?_ ?_
  · have hok := isWord_textOk.not_mem (c := ';') rfl
    have hvalue := hword.not_mem (c := ';') rfl
    simpa [hok] using hvalue
  · rw [lineWords_blank, lineWords_word_blank isWord_textOk, lineWords_word hword, annotation_ok]

/-- Settles O38: the canonical line is split at its arrow and blanks into its mnemonic, its operand and its annotation, and
each reads back by itself. -/
theorem listingLineReadsBack : Obligations.ListingLineReadsBack := fun i =>
  ⟨parseLine_listingLine i, parseLine_listingLine_ok i,
    parseLine_listingLine_word i isWord_textPrecondition (by decide),
    parseLine_listingLine_word i isWord_textUninitialized (by decide),
    parseLine_listingLine_word i isWord_textIllegal (by decide)⟩

end Sys2Proof.Machine
end
